-- ==== Sys2Proof/Word.lean ====
section
/-! DEFINITION. The fixed widths of the block: a lane and a register (R14, R21), a byte (R14), a 32-bit word of the
checksum, float and SHA-1 units (R104, R161, R180). -/

namespace Sys2Proof

/-- One byte, "integers in [0, 255]" (R14). -/
abbrev Byte := BitVec 8

/-- A 32-bit word: the CRC register (R34), a SHA-1 word (R35), a binary32 pattern (R161). -/
abbrev Word32 := BitVec 32

/-- One lane of IBUF or OBUF, one register, or one command word: 64 bits (R14, R21, R70). -/
abbrev Lane := BitVec 64

end Sys2Proof
end

