-- ==== Sys2Proof/Syntax.lean ====
section
/-! DEFINITION. The 36 instructions (R75). An instruction is one command word (R11, R70); its operands are implicit
(R79), so a constructor's arguments are exactly the flags that its op accepts (R75, column "flags"), in the order of
their bits (R73). -/

namespace Sys2Proof

/-- One constructor per row of the op table R75. Flag arguments: `le` is LE (bit 8), `strict` is STRICT (bit 9),
`overlong` is ALLOW_OVERLONG (bit 10), `surr` is ALLOW_SURR (bit 11), `bom` is BOM (bit 12), `nomask` is NOMASK
(bit 13), `hasmask` is HASMASK (bit 14) (R71, R73). -/
inductive Instr where
  /-- ADLER32, OP 0x10 (R101). -/
  | adler32
  /-- CRC32, OP 0x11 (R104). -/
  | crc32
  /-- B64ENC, OP 0x20 (R111). -/
  | b64enc
  /-- B64DEC, OP 0x21 (R112). -/
  | b64dec
  /-- VLQENC, OP 0x22 (R116). -/
  | vlqenc
  /-- VLQDEC, OP 0x23 (R117). -/
  | vlqdec
  /-- B2U8, OP 0x30 (R133). -/
  | b2u8 (le : Bool)
  /-- B2I8, OP 0x31 (R134). -/
  | b2i8 (le : Bool)
  /-- B2U16, OP 0x32 (R135). -/
  | b2u16 (le : Bool)
  /-- B2I16, OP 0x33 (R136). -/
  | b2i16 (le : Bool)
  /-- B2U32, OP 0x34 (R137). -/
  | b2u32 (le : Bool)
  /-- B2I32, OP 0x35 (R138). -/
  | b2i32 (le : Bool)
  /-- B2U64, OP 0x36 (R139). -/
  | b2u64 (le : Bool)
  /-- B2I64, OP 0x37 (R140). -/
  | b2i64 (le : Bool)
  /-- U8TOB, OP 0x38 (R141). -/
  | u8tob (le : Bool)
  /-- I8TOB, OP 0x39 (R142). -/
  | i8tob (le : Bool)
  /-- U16TOB, OP 0x3A (R143). -/
  | u16tob (le : Bool)
  /-- I16TOB, OP 0x3B (R144). -/
  | i16tob (le : Bool)
  /-- U32TOB, OP 0x3C (R145). -/
  | u32tob (le : Bool)
  /-- I32TOB, OP 0x3D (R146). -/
  | i32tob (le : Bool)
  /-- U64TOB, OP 0x3E (R147). -/
  | u64tob (le : Bool)
  /-- I64TOB, OP 0x3F (R148). -/
  | i64tob (le : Bool)
  /-- B2F32, OP 0x40 (R164). -/
  | b2f32 (le : Bool)
  /-- B2F64, OP 0x41 (R165). -/
  | b2f64 (le : Bool)
  /-- F32TOB, OP 0x48 (R167). -/
  | f32tob (le : Bool)
  /-- F64TOB, OP 0x49 (R168). -/
  | f64tob (le : Bool)
  /-- SHA1, OP 0x50 (R181). -/
  | sha1
  /-- UTF8_B2C, OP 0x60 (R203). -/
  | utf8B2c (strict overlong surr bom : Bool)
  /-- UTF8_C2B, OP 0x61 (R206). -/
  | utf8C2b (strict surr bom : Bool)
  /-- UTF16_B2C, OP 0x62 (R223). -/
  | utf16B2c (le strict surr bom : Bool)
  /-- UTF16_C2B, OP 0x63 (R224). -/
  | utf16C2b (le strict surr bom : Bool)
  /-- UTF32_B2C, OP 0x64 (R225). -/
  | utf32B2c (le strict surr bom : Bool)
  /-- UTF32_C2B, OP 0x65 (R226). -/
  | utf32C2b (le strict surr bom : Bool)
  /-- PNGRGBA, OP 0x70 (R250). -/
  | pngrgba
  /-- WSENC, OP 0x80 (R263). -/
  | wsenc (nomask hasmask : Bool)
  /-- WSDEC, OP 0x81 (R264). -/
  | wsdec (nomask : Bool)
deriving DecidableEq, Repr

end Sys2Proof
end

