-- ==== Sys2Proof/Decode.lean ====
section
/-! DEFINITION. The decoder and the encoder of command words (R70 to R78). A command word is one 64-bit number written
to CMD; it has no byte order and no second word (R54, R70). Decoding is total and rejects by name what R77 calls
illegal. -/

namespace Sys2Proof

/-- Why a 64-bit value is not a legal command word (R77). Whichever it is, the command ends with E_ILLEGAL (R305). -/
inductive DecodeError where
  /-- A bit of 63 to 15 is set. -/
  | reservedBits
  /-- The OP value is not one of the 36 defined ones. -/
  | reservedOp
  /-- A flag is set that the op does not accept. -/
  | flagNotAccepted
deriving DecidableEq, Repr

/-- The OP field, bits 7 to 0 (R71). -/
def opField (c : Lane) : Nat := (c.extractLsb' 0 8).toNat

/-- LE, bit 8 (R71, R73). -/
def flagLE (c : Lane) : Bool := c.getLsbD 8
/-- STRICT, bit 9. -/
def flagSTRICT (c : Lane) : Bool := c.getLsbD 9
/-- ALLOW_OVERLONG, bit 10. -/
def flagALLOW_OVERLONG (c : Lane) : Bool := c.getLsbD 10
/-- ALLOW_SURR, bit 11. -/
def flagALLOW_SURR (c : Lane) : Bool := c.getLsbD 11
/-- BOM, bit 12. -/
def flagBOM (c : Lane) : Bool := c.getLsbD 12
/-- NOMASK, bit 13. -/
def flagNOMASK (c : Lane) : Bool := c.getLsbD 13
/-- HASMASK, bit 14. -/
def flagHASMASK (c : Lane) : Bool := c.getLsbD 14

/-- Accept `i` if every flag bit of `c` that is not in `accepted` (the `A(op)` of R76) is 0. -/
def acceptFlags (c accepted : Lane) (i : Instr) : Except DecodeError Instr :=
  if c &&& 0x7F00 &&& ~~~accepted = 0 then .ok i else .error .flagNotAccepted

/-- The OP map (R72, R74, R75) and each op's accepted flags (R75, R76). -/
def decodeOp (c : Lane) : Except DecodeError Instr :=
  match opField c with
  | 0x10 => acceptFlags c 0 .adler32
  | 0x11 => acceptFlags c 0 .crc32
  | 0x20 => acceptFlags c 0 .b64enc
  | 0x21 => acceptFlags c 0 .b64dec
  | 0x22 => acceptFlags c 0 .vlqenc
  | 0x23 => acceptFlags c 0 .vlqdec
  | 0x30 => acceptFlags c 0x0100 (.b2u8 (flagLE c))
  | 0x31 => acceptFlags c 0x0100 (.b2i8 (flagLE c))
  | 0x32 => acceptFlags c 0x0100 (.b2u16 (flagLE c))
  | 0x33 => acceptFlags c 0x0100 (.b2i16 (flagLE c))
  | 0x34 => acceptFlags c 0x0100 (.b2u32 (flagLE c))
  | 0x35 => acceptFlags c 0x0100 (.b2i32 (flagLE c))
  | 0x36 => acceptFlags c 0x0100 (.b2u64 (flagLE c))
  | 0x37 => acceptFlags c 0x0100 (.b2i64 (flagLE c))
  | 0x38 => acceptFlags c 0x0100 (.u8tob (flagLE c))
  | 0x39 => acceptFlags c 0x0100 (.i8tob (flagLE c))
  | 0x3A => acceptFlags c 0x0100 (.u16tob (flagLE c))
  | 0x3B => acceptFlags c 0x0100 (.i16tob (flagLE c))
  | 0x3C => acceptFlags c 0x0100 (.u32tob (flagLE c))
  | 0x3D => acceptFlags c 0x0100 (.i32tob (flagLE c))
  | 0x3E => acceptFlags c 0x0100 (.u64tob (flagLE c))
  | 0x3F => acceptFlags c 0x0100 (.i64tob (flagLE c))
  | 0x40 => acceptFlags c 0x0100 (.b2f32 (flagLE c))
  | 0x41 => acceptFlags c 0x0100 (.b2f64 (flagLE c))
  | 0x48 => acceptFlags c 0x0100 (.f32tob (flagLE c))
  | 0x49 => acceptFlags c 0x0100 (.f64tob (flagLE c))
  | 0x50 => acceptFlags c 0 .sha1
  | 0x60 => acceptFlags c 0x1E00 (.utf8B2c (flagSTRICT c) (flagALLOW_OVERLONG c) (flagALLOW_SURR c) (flagBOM c))
  | 0x61 => acceptFlags c 0x1A00 (.utf8C2b (flagSTRICT c) (flagALLOW_SURR c) (flagBOM c))
  | 0x62 => acceptFlags c 0x1B00 (.utf16B2c (flagLE c) (flagSTRICT c) (flagALLOW_SURR c) (flagBOM c))
  | 0x63 => acceptFlags c 0x1B00 (.utf16C2b (flagLE c) (flagSTRICT c) (flagALLOW_SURR c) (flagBOM c))
  | 0x64 => acceptFlags c 0x1B00 (.utf32B2c (flagLE c) (flagSTRICT c) (flagALLOW_SURR c) (flagBOM c))
  | 0x65 => acceptFlags c 0x1B00 (.utf32C2b (flagLE c) (flagSTRICT c) (flagALLOW_SURR c) (flagBOM c))
  | 0x70 => acceptFlags c 0 .pngrgba
  | 0x80 => acceptFlags c 0x6000 (.wsenc (flagNOMASK c) (flagHASMASK c))
  | 0x81 => acceptFlags c 0x2000 (.wsdec (flagNOMASK c))
  | _ => .error .reservedOp

/-- The decoder of the whole command word (R76, R77). -/
def decode (c : Lane) : Except DecodeError Instr :=
  if c >>> 15 = 0 then decodeOp c else .error .reservedBits

/-- The CMD value of a flag: bit `k` when the flag is set (R73). -/
def flagValue (b : Bool) (k : Nat) : Lane := if b then 1#64 <<< k else 0

/-- The command word of an instruction: `OP | sum of flag values` (R73, R75, R80). -/
def encode : Instr → Lane
  | .adler32 => 0x10
  | .crc32 => 0x11
  | .b64enc => 0x20
  | .b64dec => 0x21
  | .vlqenc => 0x22
  | .vlqdec => 0x23
  | .b2u8 le => 0x30 ||| flagValue le 8
  | .b2i8 le => 0x31 ||| flagValue le 8
  | .b2u16 le => 0x32 ||| flagValue le 8
  | .b2i16 le => 0x33 ||| flagValue le 8
  | .b2u32 le => 0x34 ||| flagValue le 8
  | .b2i32 le => 0x35 ||| flagValue le 8
  | .b2u64 le => 0x36 ||| flagValue le 8
  | .b2i64 le => 0x37 ||| flagValue le 8
  | .u8tob le => 0x38 ||| flagValue le 8
  | .i8tob le => 0x39 ||| flagValue le 8
  | .u16tob le => 0x3A ||| flagValue le 8
  | .i16tob le => 0x3B ||| flagValue le 8
  | .u32tob le => 0x3C ||| flagValue le 8
  | .i32tob le => 0x3D ||| flagValue le 8
  | .u64tob le => 0x3E ||| flagValue le 8
  | .i64tob le => 0x3F ||| flagValue le 8
  | .b2f32 le => 0x40 ||| flagValue le 8
  | .b2f64 le => 0x41 ||| flagValue le 8
  | .f32tob le => 0x48 ||| flagValue le 8
  | .f64tob le => 0x49 ||| flagValue le 8
  | .sha1 => 0x50
  | .utf8B2c strict overlong surr bom =>
      0x60 ||| flagValue strict 9 ||| flagValue overlong 10 ||| flagValue surr 11 ||| flagValue bom 12
  | .utf8C2b strict surr bom => 0x61 ||| flagValue strict 9 ||| flagValue surr 11 ||| flagValue bom 12
  | .utf16B2c le strict surr bom =>
      0x62 ||| flagValue le 8 ||| flagValue strict 9 ||| flagValue surr 11 ||| flagValue bom 12
  | .utf16C2b le strict surr bom =>
      0x63 ||| flagValue le 8 ||| flagValue strict 9 ||| flagValue surr 11 ||| flagValue bom 12
  | .utf32B2c le strict surr bom =>
      0x64 ||| flagValue le 8 ||| flagValue strict 9 ||| flagValue surr 11 ||| flagValue bom 12
  | .utf32C2b le strict surr bom =>
      0x65 ||| flagValue le 8 ||| flagValue strict 9 ||| flagValue surr 11 ||| flagValue bom 12
  | .pngrgba => 0x70
  | .wsenc nomask hasmask => 0x80 ||| flagValue nomask 13 ||| flagValue hasmask 14
  | .wsdec nomask => 0x81 ||| flagValue nomask 13

/-- The command word whose low `nbits` bits are `w`, every higher bit 0 (the numbering of the opcode table). -/
def tableWord (nbits w : Nat) : Lane := BitVec.ofNat 64 (w % 2 ^ nbits)

/-- The instruction the decoder reads from an opcode-table word. -/
def decodeTableWord (nbits w : Nat) : Option Instr :=
  match decode (tableWord nbits w) with
  | .ok i => some i
  | .error _ => none

end Sys2Proof
end

