-- ==== Sys2Proof/Config.lean ====
section
/-! DEFINITION. The parameters that R13 leaves OPEN. The two capacities are registers (ICAP and OCAP, R30): every
operation reads them from the state, so that statements over all states cover every capacity, and the two constants
here are only what `State.reset` puts there. The bases and the number of contexts are opaque. -/

namespace Sys2Proof

/-- `IBUF_CAP` of the machine that `State.reset` stands for. DESIGN CHOICE (log 2): R13 leaves it OPEN; 65600 lanes
hold every vector of 95_test_vectors.md. Unsafe only for a statement about this one value. -/
def Config.ibufCap : Lane := 65600

/-- `OBUF_CAP` of the machine that `State.reset` stands for. DESIGN CHOICE (log 2), as `Config.ibufCap`. -/
def Config.obufCap : Lane := 65600

/-- `REG_BASE` (R13, R53): OPEN, so nothing can be proved of its value. -/
opaque Config.regBase : Nat

/-- `IBUF_BASE` (R13, R53): OPEN. -/
opaque Config.ibufBase : Nat

/-- `OBUF_BASE` (R13, R53): OPEN. -/
opaque Config.obufBase : Nat

/-- `N_CTX` less one: `N_CTX` is OPEN but at least 1 (R13, R322). -/
opaque Config.furtherContexts : Nat

/-- `N_CTX`, the number of contexts (R13, R322). -/
def Config.numContexts : Nat := Config.furtherContexts + 1

end Sys2Proof
end

