-- ==== Sys2Proof/Machine/State.lean ====
section
/-! DEFINITION. The state of one context (R20), the host accesses that drive it (R52), the reasons a step can stop, and
the state after reset (R340). Plain data: no field is a function. -/

namespace Sys2Proof.Machine

/-- One lane of a buffer at its index. The smallest addressable unit of this hardware is a 64-bit lane, not a byte
(R54), so a cell holds a lane (log 1). -/
abbrev LaneCell := Nat × Lane

/-- The contents of IBUF or OBUF: the list of its nonzero lanes, indices strictly rising. An unlisted lane reads 0, the
reset contents (R340). -/
abbrev Memory := List LaneCell

/-- The three address spaces of a context (R50). -/
inductive Space where
  | registers
  | ibuf
  | obuf
deriving DecidableEq, Repr

/-- A platform bus access by byte address (R53, R57): `width` in bytes; `data` is the value written, or none for a
read. `space` is the window the platform has selected. -/
structure BusRequest where
  space : Space
  address : Nat
  width : Nat
  data : Option Lane
deriving DecidableEq, Repr

/-- What a host may ask of a context: the five primitives of R52, and what is no primitive: a write to OBUF, which the
model refuses (R52, R57; log 10), and an access by platform byte address, which is a primitive or is refused (R53, R57;
log 11). -/
inductive HostAccess where
  /-- `HostReadReg(i)`. -/
  | readReg (i : Nat)
  /-- `HostWriteReg(i, v)`; `i = 0` is the command step R31. -/
  | writeReg (i : Nat) (v : Lane)
  /-- `HostReadIBUF(i)`; 0 at and above the capacity (log 9). -/
  | readIbuf (i : Nat)
  /-- `HostWriteIBUF(i, v)`. -/
  | writeIbuf (i : Nat) (v : Lane)
  /-- `HostReadOBUF(i)`; 0 at and above the capacity (log 9). -/
  | readObuf (i : Nat)
  /-- A host write to OBUF: none of the five primitives, so refused (R52, R57; log 10). -/
  | writeObuf (i : Nat) (v : Lane)
  /-- An access by byte address (R53); refused where R57 does not define it (log 11). -/
  | bus (q : BusRequest)
deriving DecidableEq, Repr

/-- What can happen to a context between two steps: a host access, or the platform's reset (R341, R352). -/
inductive Event where
  | access (a : HostAccess)
  | reset
deriving DecidableEq, Repr

/-- Why a step stops with a fault. Nothing stops the block: "no state of the block lacks a successor"
(93_implementation_defined.md), every command completes (R289), and an error is recorded in registers, not raised
(R303). So there is no constructor; that is safe, since no step ends here. -/
inductive Fault where
deriving DecidableEq, Repr

/-- Why a step is refused. -/
inductive Refusal where
  /-- An instruction without a meaning in `exec`. Raised by no arm: every instruction has its meaning. Safe. -/
  | notModelled (mnemonic : String)
  /-- A bus request that is not 8 bytes wide, or not aligned to a register or lane: "not defined by this spec", "A model
  offers only the five primitives of rule R52 and refuses anything else" (R57). Raised by the `.bus` access only. Safe:
  it "errs toward unprovable". -/
  | undefinedAccess
  /-- A host write to OBUF, which is none of the five primitives: "refuses anything else" (R57), "there is no primitive
that writes OBUF (`refuse`)" (I12 of 93_implementation_defined.md; log 10). Raised by the `.writeObuf` access and by a
`.bus` write to the OBUF space. Safe. -/
  | notAPrimitive
  /-- An access to a context whose number is not below `N_CTX` (R322). Raised by `Block.step` only. Safe. -/
  | noSuchContext
deriving DecidableEq, Repr

/-- The state of one context: every register of R21 under its own name, the two buffers (R24, R25), and the model's own
`script` and `replies` (log 3, log 4). -/
structure State where
  /-- CMD, index 0 (R28). -/
  cmd : Lane
  /-- STATUS, index 1 (R29). -/
  status : Lane
  /-- ERRPOS, index 2 (R30). -/
  errpos : Lane
  /-- ERRINFO, index 3 (R30). -/
  errinfo : Lane
  /-- ILEN, index 4 (R30). -/
  ilen : Lane
  /-- OLEN, index 5 (R30). -/
  olen : Lane
  /-- ICAP, index 6: the constant `IBUF_CAP` (R30). -/
  icap : Lane
  /-- OCAP, index 7: the constant `OBUF_CAP` (R30). -/
  ocap : Lane
  /-- ARG0, index 8 (R22). -/
  arg0 : Lane
  /-- ARG1, index 9 (R22). -/
  arg1 : Lane
  /-- RES0, index 10 (R22). -/
  res0 : Lane
  /-- RES1, index 11 (R22). -/
  res1 : Lane
  /-- RES2, index 12 (R22). -/
  res2 : Lane
  /-- RES3, index 13 (R22). -/
  res3 : Lane
  /-- RES4, index 14 (R22). -/
  res4 : Lane
  /-- IBUF (R24). -/
  ibuf : Memory
  /-- OBUF (R25). -/
  obuf : Memory
  /-- The MODEL's own: the accesses and resets still to come, oldest first, in the one total order of R61 (log 3). -/
  script : List Event
  /-- The MODEL's own: the values that host reads have returned, oldest first (log 4). -/
  replies : List Lane
deriving DecidableEq, Repr

/-- The state after reset of a context whose buffers have `icap` and `ocap` lanes: the table of R340, for every value of
the two parameters of R13. -/
def State.resetWith (icap ocap : Lane) : State where
  cmd := 0
  status := 0
  errpos := 0
  errinfo := 0
  ilen := 0
  olen := 0
  icap := icap
  ocap := ocap
  arg0 := 0
  arg1 := 0
  res0 := 0
  res1 := 0
  res2 := 0
  res3 := 0
  res4 := 0
  ibuf := []
  obuf := []
  script := []
  replies := []

/-- The machine right after reset (R340), with the capacities of `Config` (log 2). -/
def State.reset : State := State.resetWith Config.ibufCap Config.obufCap

end Sys2Proof.Machine
end

