-- ==== Sys2Proof/Machine/Flags.lean ====
section
/-! DEFINITION. STATUS, the block's only flags (R29), and the error codes (R300). There are no carry, zero, overflow or
sign flags and no condition codes. -/

namespace Sys2Proof.Machine

/-- The error codes that a command can record (R300). -/
inductive ErrorCode where
  /-- E_FORMAT: malformed input in strict mode, an unfinished VLQ string, a truncated WebSocket header. -/
  | format
  /-- E_RANGE: a codepoint above 0x10FFFF, a VLQ value outside 64 bits. -/
  | range
  /-- E_BADCHAR: a VLQ character outside the alphabet. -/
  | badchar
  /-- E_ILLEGAL: not a legal command word (R305). -/
  | illegal
  /-- E_CAPACITY: ILEN above IBUF_CAP, or the output above OBUF_CAP (R306). -/
  | capacity
deriving DecidableEq, Repr

/-- The CODE value of each error (R300). -/
def ErrorCode.value : ErrorCode → Lane
  | .format => 1
  | .range => 2
  | .badchar => 3
  | .illegal => 4
  | .capacity => 5

/-- STATUS.DONE, bit 0 (R29). -/
def State.done (s : State) : Bool := s.status.getLsbD 0

/-- STATUS.ERR, bit 1 (R29). -/
def State.err (s : State) : Bool := s.status.getLsbD 1

/-- STATUS.CODE, bits 7 to 4 (R29). -/
def State.code (s : State) : BitVec 4 := s.status.extractLsb' 4 4

/-- STATUS with ERR and CODE cleared and the reserved bits 0: "Every command writes all of STATUS" (R29, R31 step 2). -/
def statusCleared (st : Lane) : Lane := st &&& 1

/-- STATUS with ERR set and CODE written (R303). -/
def statusError (e : ErrorCode) (st : Lane) : Lane := (st &&& 1) ||| 2 ||| (e.value <<< 4)

/-- STATUS with DONE set (R31 step 9). -/
def statusDone (st : Lane) : Lane := st ||| 1

end Sys2Proof.Machine
end

