-- ==== Sys2Proof/Machine/Operands.lean ====
section
/-! DEFINITION. The operand forms: the five ports of R27, the input sequence (R17), the scalar fields of ARG0 and ARG1
(R79, R262), and how several lanes make one multi-byte quantity (R55, R131, R132). -/

namespace Sys2Proof.Machine

/-- `f n`, written so that an evaluator that computes on demand (Lean's kernel among them) computes `n` first; it keeps the
loops below from piling up unevaluated steps. Its law is `forceNat_eq`. -/
def forceNat {α : Type} (n : Nat) (f : Nat → α) : α :=
  match n with
  | 0 => f 0
  | m + 1 => f (m + 1)

/-- `f w`, with `w` computed first; its law is `forceWord_eq`. -/
def forceWord {α : Type} (w : Word32) (f : Word32 → α) : α := forceNat w.toNat fun n => f (BitVec.ofNat 32 n)

@[simp] theorem forceNat_eq {α : Type} (n : Nat) (f : Nat → α) : forceNat n f = f n := by
  cases n <;> rfl

@[simp] theorem forceWord_eq {α : Type} (w : Word32) (f : Word32 → α) : forceWord w f = f w := by
  simp [forceWord]

/-- The lane at an index; an unlisted lane is 0 (R340). -/
def Memory.read : Memory → Nat → Lane
  | [], _ => 0
  | (a, v) :: t, i => if a = i then v else Memory.read t i

/-- `in[0..n-1]` with `n` = ILEN: the lanes IBUF[0] to IBUF[ILEN-1] (R17). -/
def State.input (s : State) : List Lane := (List.range s.ilen.toNat).map (Memory.read s.ibuf)

/-- Byte and symbol input port: `lane[7:0]`; bits 63 to 8 are ignored (R27). -/
def bytePort (v : Lane) : Byte := v.setWidth 8

/-- `b[0..n-1]`: the input through the byte port (R17). -/
def byteInput (input : List Lane) : List Byte := input.map bytePort

/-- Integer input port with W = 64, signed (R27): `signed_64` of R15. -/
def signedPort (v : Lane) : Int := v.toInt

/-- Byte and symbol output port: the byte or character code, zero-extended (R27). -/
def byteLane (b : Byte) : Lane := b.setWidth 64

/-- Codepoint output port: the codepoint, zero-extended (R27). -/
def codepointLane (cp : Nat) : Lane := BitVec.ofNat 64 cp

/-- A 32-bit value, zero-extended to a lane (R100, R186). -/
def wordLane (w : Word32) : Lane := w.setWidth 64

/-- Integer output port of width `8 * w` bits: sign-extended for the signed ops (`sext_64`, R16), zero-extended for the
unsigned (R27). -/
def integerLane (w : Nat) (signed : Bool) (v : Nat) : Lane :=
  if signed then (BitVec.ofNat (8 * w) v).signExtend 64 else BitVec.ofNat 64 v

/-- Big-endian assembly: the first byte is the most significant (R131). -/
def assembleBE (g : List Byte) : Nat := g.foldl (fun acc b => acc <<< 8 ||| b.toNat) 0

/-- `assemble(w, le, g)` of R131, `w` the length of the group; with `le` the first byte is the least significant. -/
def assemble (le : Bool) (g : List Byte) : Nat := assembleBE (if le then g.reverse else g)

/-- The `n div w` complete groups of `w` bytes; the `n mod w` bytes left over are discarded (R131). -/
def completeGroups (w : Nat) (b : List Byte) : List (List Byte) :=
  (List.range (b.length / w)).map fun k => (b.drop (k * w)).take w

/-- The low `w` bytes of a number, least significant first. -/
def bytesLE (w v : Nat) : List Byte := (List.range w).map fun j => BitVec.ofNat 8 (v >>> (8 * j))

/-- The low `w` bytes of a number in the byte order of LE; `v[8w-1 : 8w-8]` first when LE = 0 (R132). -/
def bytesOf (w : Nat) (le : Bool) (v : Nat) : List Byte :=
  if le then bytesLE w v else (bytesLE w v).reverse

/-- `be32` of R250, and every fixed big-endian 32-bit field of R55. -/
def be32 (v : Word32) : List Byte := bytesOf 4 false v.toNat

/-- `R = ARG0[31:24]`, `G = ARG0[23:16]`, `B = ARG0[15:8]`, `A = ARG0[7:0]`; bits 63 to 32 ignored (R79, R250). -/
def pixelOf (arg0 : Lane) : List Byte :=
  [arg0.extractLsb' 24 8, arg0.extractLsb' 16 8, arg0.extractLsb' 8 8, arg0.extractLsb' 0 8]

/-- Byte 0 of a WebSocket frame from ARG0: `isFinal`, `isRSV1`, `isRSV2`, `isRSV3` from bits 0 to 3 to bits 7 to 4, and
the opcode from bits 7 to 4 to bits 3 to 0 (R262, R263). -/
def frameByte0 (arg0 : Lane) : Byte :=
  (arg0.extractLsb' 0 1).setWidth 8 <<< 7 ||| (arg0.extractLsb' 1 1).setWidth 8 <<< 6
    ||| (arg0.extractLsb' 2 1).setWidth 8 <<< 5 ||| (arg0.extractLsb' 3 1).setWidth 8 <<< 4
    ||| (arg0.extractLsb' 4 4).setWidth 8

/-- `mask[0..3]` from ARG1: `ARG1[31:24]` first (R262). -/
def maskOf (arg1 : Lane) : List Byte :=
  [arg1.extractLsb' 24 8, arg1.extractLsb' 16 8, arg1.extractLsb' 8 8, arg1.extractLsb' 0 8]

end Sys2Proof.Machine
end

