-- ==== Sys2Proof/Machine/Ops.lean ====
section
/-! DEFINITION. The named operations over buffers and registers, and the command step they make up (R31): clearing the
outputs, recording an error (R303), delivering a result, and running an op between the two capacity checks (R306). -/

namespace Sys2Proof.Machine

/-- Write one lane, keeping the canonical form: a lane written 0 leaves the list. -/
def Memory.write : Memory → Nat → Lane → Memory
  | [], i, v => if v = 0 then [] else [(i, v)]
  | (a, x) :: t, i, v =>
    if i < a then (if v = 0 then (a, x) :: t else (i, v) :: (a, x) :: t)
    else if i = a then (if v = 0 then t else (i, v) :: t)
    else (a, x) :: Memory.write t i v

/-- The buffer whose lanes from index `i` on are the list, and every other lane 0. -/
def Memory.ofListFrom : Nat → List Lane → Memory
  | _, [] => []
  | i, v :: t => if v = 0 then Memory.ofListFrom (i + 1) t else (i, v) :: Memory.ofListFrom (i + 1) t

/-- The buffer that holds the list from lane 0 and is 0 elsewhere. -/
def Memory.ofList (out : List Lane) : Memory := Memory.ofListFrom 0 out

/-- Indices strictly rising, the first at least `lo`, and no listed lane 0. -/
def Memory.wfFrom : Nat → Memory → Bool
  | _, [] => true
  | lo, (a, v) :: t => decide (lo ≤ a) && decide (v ≠ 0) && Memory.wfFrom (a + 1) t

/-- The canonical form of a buffer. -/
def Memory.wf (m : Memory) : Bool := Memory.wfFrom 0 m

/-- Every listed lane lies below index `n`: a buffer of `n` lanes holds nothing else (R24, R25). -/
def Memory.within (m : Memory) (n : Nat) : Bool := m.all fun c => decide (c.1 < n)

/-- `raise CODE(pos, info)`; `info` is 0 when omitted (R17). -/
structure OpError where
  code : ErrorCode
  pos : Nat
  info : Nat := 0
deriving DecidableEq, Repr

/-- What an op that does not raise hands to R31 step 8: `out` and `res[0..4]`, the results all 0 at the start (R17). -/
structure OpResult where
  out : List Lane := []
  r0 : Lane := 0
  r1 : Lane := 0
  r2 : Lane := 0
  r3 : Lane := 0
  r4 : Lane := 0
deriving DecidableEq, Repr

/-- R31 step 2, which is also the way out of an error report (R307): the report, OLEN, RES0 to RES4 and every lane of
OBUF become 0. DONE keeps its value. -/
def State.clearOutputs (s : State) : State :=
  { s with
    status := statusCleared s.status, errpos := 0, errinfo := 0, olen := 0
    res0 := 0, res1 := 0, res2 := 0, res3 := 0, res4 := 0, obuf := [] }

/-- R31 step 9: the command is complete. -/
def State.finish (s : State) : State := { s with status := statusDone s.status }

/-- Taking an error, the block's whole "trap entry": the error write of R303 and then step 9. -/
def State.fail (s : State) (e : OpError) : State :=
  State.finish { s with
    status := statusError e.code s.status
    errpos := BitVec.ofNat 64 e.pos
    errinfo := BitVec.ofNat 64 e.info }

/-- R31 step 8 and then step 9: OBUF, OLEN and RES0 to RES4 take the op's results. -/
def State.deliver (s : State) (r : OpResult) : State :=
  State.finish { s with
    obuf := Memory.ofList r.out, olen := BitVec.ofNat 64 r.out.length
    res0 := r.r0, res1 := r.r1, res2 := r.r2, res3 := r.r3, res4 := r.r4 }

/-- R31 steps 6 to 9 for an op's outcome: its own error first, then the output capacity (R306, R310). -/
def State.conclude (s : State) : Except OpError OpResult → State
  | .error e => s.fail e
  | .ok r => if s.ocap.toNat < r.out.length then s.fail ⟨.capacity, s.ocap.toNat, 1⟩ else s.deliver r

/-- The command step from step 2 on, for a legal command word whose op is `op` (R31 steps 2 and 4 to 9). -/
def State.runOp (s : State) (op : List Lane → Except OpError OpResult) : State :=
  if s.icap.toNat < s.ilen.toNat then s.clearOutputs.fail ⟨.capacity, s.icap.toNat, 0⟩
  else s.clearOutputs.conclude (op s.input)

/-- The command step for a value that is not a legal command word (R31 steps 2, 3 and 9; R305). -/
def State.illegalCommand (s : State) (c : Lane) : State :=
  s.clearOutputs.fail ⟨.illegal, 0, c.toNat⟩

/-- An op with sequence output only. -/
def outputs (out : List Lane) : Except OpError OpResult := .ok { out := out }

/-- An op with sequence output only, which may raise an error of its own. -/
def raisingOutputs : Except OpError (List Lane) → Except OpError OpResult
  | .ok out => outputs out
  | .error e => .error e

/-- Put the elements `xs` before the output of the rest of a loop, which may instead have raised an error. -/
def prependOk {α : Type} (xs : List α) : Except OpError (List α) → Except OpError (List α)
  | .ok rest => .ok (xs ++ rest)
  | .error e => .error e

/-- Register `i` as the host reads it: R21, and 0 from index 15 up. -/
def State.register (s : State) : Nat → Lane
  | 0 => s.cmd
  | 1 => s.status
  | 2 => s.errpos
  | 3 => s.errinfo
  | 4 => s.ilen
  | 5 => s.olen
  | 6 => s.icap
  | 7 => s.ocap
  | 8 => s.arg0
  | 9 => s.arg1
  | 10 => s.res0
  | 11 => s.res1
  | 12 => s.res2
  | 13 => s.res3
  | 14 => s.res4
  | _ => 0

/-- A host write of register `i` other than CMD: ILEN, ARG0 and ARG1 take the value, every other write is ignored
(R21, R52). -/
def State.setRegister (s : State) (i : Nat) (v : Lane) : State :=
  match i with
  | 4 => { s with ilen := v }
  | 8 => { s with arg0 := v }
  | 9 => { s with arg1 := v }
  | _ => s

/-- IBUF[i] as the host reads it: 0 at and above the capacity (R24, R52, R321; log 9). -/
def State.readIbuf (s : State) (i : Nat) : Lane := if i < s.icap.toNat then s.ibuf.read i else 0

/-- A host write of IBUF[i]: ignored at and above the capacity (R24, R52). -/
def State.writeIbuf (s : State) (i : Nat) (v : Lane) : State :=
  if i < s.icap.toNat then { s with ibuf := s.ibuf.write i v } else s

/-- OBUF[i] as the host reads it: 0 at and above the capacity (R25, R52, R321; log 9). -/
def State.readObuf (s : State) (i : Nat) : Lane := if i < s.ocap.toNat then s.obuf.read i else 0

/-- The output sequence as a host collects it: OBUF[0] to OBUF[OLEN-1] (R51, R80). -/
def State.output (s : State) : List Lane := (List.range s.olen.toNat).map s.obuf.read

/-- A read returns a value to the host and does nothing else (R59; log 4). -/
def State.answer (s : State) (v : Lane) : State := { s with replies := s.replies ++ [v] }

/-- The platform's reset: the state of R340, with the same capacities, which "reset does not change". The accesses still
to come and the values already returned are the host's, not the block's, and stay (log 3, log 4). -/
def State.platformReset (s : State) : State :=
  { State.resetWith s.icap s.ocap with script := s.script, replies := s.replies }

end Sys2Proof.Machine
end

