-- ==== Sys2Proof/Machine/Base64.lean ====
section
/-! DEFINITION. The base64 codec (41_base64.md): the alphabet (R110), B64ENC (R111), B64DEC (R112). -/

namespace Sys2Proof.Machine

/-- `ALPHA[k]`, the character code of the symbol with index `k` (R110). -/
def alphaOf (k : Nat) : Byte :=
  if k < 26 then BitVec.ofNat 8 (65 + k)
  else if k < 52 then BitVec.ofNat 8 (97 + (k - 26))
  else if k < 62 then BitVec.ofNat 8 (48 + (k - 52))
  else if k = 62 then 43
  else 47

/-- `IDX(c)`, the index of the symbol with character code `c`, or none; the pad `=` has none (R110). -/
def indexOf (c : Byte) : Option Nat :=
  let n := c.toNat
  if 65 ≤ n ∧ n ≤ 90 then some (n - 65)
  else if 97 ≤ n ∧ n ≤ 122 then some (n - 97 + 26)
  else if 48 ≤ n ∧ n ≤ 57 then some (n - 48 + 52)
  else if n = 43 then some 62
  else if n = 47 then some 63
  else none

/-- The pad character `=` (R110). -/
def padSymbol : Byte := 61

/-- B64ENC's output for a byte sequence given as numbers (R111): groups of three, then the padded last group. -/
def b64Encode : List Nat → List Byte
  | x :: y :: z :: t =>
    alphaOf (x >>> 2) :: alphaOf ((x &&& 3) <<< 4 ||| y >>> 4) :: alphaOf ((y &&& 15) <<< 2 ||| z >>> 6)
      :: alphaOf (z &&& 63) :: b64Encode t
  | [x, y] =>
    [alphaOf (x >>> 2), alphaOf ((x &&& 3) <<< 4 ||| y >>> 4), alphaOf ((y &&& 15) <<< 2), padSymbol]
  | [x] => [alphaOf (x >>> 2), alphaOf ((x &&& 3) <<< 4), padSymbol, padSymbol]
  | [] => []

/-- B64DEC's output for a list of symbol indices (R112): groups of four, then a last group of two or three; a dangling
single symbol is dropped. -/
def b64Symbols : List Nat → List Byte
  | p :: q :: t :: u :: rest =>
    BitVec.ofNat 8 (p <<< 2 ||| q >>> 4) :: BitVec.ofNat 8 ((q &&& 15) <<< 4 ||| t >>> 2)
      :: BitVec.ofNat 8 ((t &&& 3) <<< 6 ||| u) :: b64Symbols rest
  | [p, q, t] => [BitVec.ofNat 8 (p <<< 2 ||| q >>> 4), BitVec.ofNat 8 ((q &&& 15) <<< 4 ||| t >>> 2)]
  | [p, q] => [BitVec.ofNat 8 (p <<< 2 ||| q >>> 4)]
  | [_] => []
  | [] => []

/-- B64DEC: every character without an index is left out, the pad too, wherever it stands (R112). -/
def b64Decode (bs : List Byte) : List Byte := b64Symbols (bs.filterMap indexOf)

/-- B64ENC (R111). -/
def execB64enc (s : State) : Host.Outcome State Fault Refusal :=
  .next (s.runOp fun input => outputs ((b64Encode ((byteInput input).map BitVec.toNat)).map byteLane))

/-- B64DEC (R112); it never raises an error of its own. -/
def execB64dec (s : State) : Host.Outcome State Fault Refusal :=
  .next (s.runOp fun input => outputs ((b64Decode (byteInput input)).map byteLane))

end Sys2Proof.Machine
end

