-- ==== Sys2Proof/Machine/Checksum.lean ====
section
/-! DEFINITION. The checksum engines (40_checksums.md): ADLER32 (R101) and CRC32 (R103, R104), and the table form of
the CRC (R105). -/

namespace Sys2Proof.Machine

/-- The loop of R101 over the bytes, from the working registers `a` and `b` (R33) on: `a <- (a + b[i]) mod 65521`, then
`b <- (b + a) mod 65521` with the new `a`; the result is `(b << 16) | a`. -/
def adlerFrom (a b : Nat) : List Byte → Word32
  | [] => BitVec.ofNat 32 (b <<< 16 ||| a)
  | x :: t =>
    forceNat ((a + x.toNat) % 65521) fun a' => forceNat ((b + a') % 65521) fun b' => adlerFrom a' b' t

/-- Adler-32 of a byte sequence: `a` starts at 1 and `b` at 0 (R101). -/
def adler32 (bs : List Byte) : Word32 := adlerFrom 1 0 bs

/-- `crcstep` of R103: shift right, and apply the reflected polynomial when the bit shifted out is 1. -/
def crcStep (c : Word32) : Word32 :=
  if c.getLsbD 0 then (c >>> 1) ^^^ 0xEDB88320 else c >>> 1

/-- `crcstep` applied `k` times. -/
def crcSteps : Nat → Word32 → Word32
  | 0, c => c
  | k + 1, c => crcSteps k (crcStep c)

/-- One byte of R104: exclusive-or into bits 7 to 0, then eight bit steps. -/
def crcByte (c : Word32) (x : Byte) : Word32 := crcSteps 8 (c ^^^ x.setWidth 32)

/-- The loop of R104 over the bytes, from the working register `crc` (R34) on. -/
def crcFrom (c : Word32) : List Byte → Word32
  | [] => c
  | x :: t => forceWord (crcByte c x) fun c' => crcFrom c' t

/-- CRC-32 of a byte sequence: the complemented seed, every byte, the complemented result (R104). -/
def crc32 (bs : List Byte) : Word32 := crcFrom 0xFFFFFFFF bs ^^^ 0xFFFFFFFF

/-- `T[k]` of R105: `crcstep` applied 8 times to `k`. -/
def crcTable (k : Byte) : Word32 := crcSteps 8 (k.setWidth 32)

/-- One byte of the table form: `crc <- (crc >> 8) ^ T[(crc ^ b[i]) & 0xFF]` (R105). -/
def crcTableByte (c : Word32) (x : Byte) : Word32 := (c >>> 8) ^^^ crcTable (c.setWidth 8 ^^^ x)

/-- The table-accelerated form of CRC-32 (R105). -/
def crc32Table (bs : List Byte) : Word32 := bs.foldl crcTableByte 0xFFFFFFFF ^^^ 0xFFFFFFFF

/-- ADLER32 (R100, R101): the checksum in RES0, no output sequence. -/
def execAdler32 (s : State) : Host.Outcome State Fault Refusal :=
  .next (s.runOp fun input => .ok { r0 := wordLane (adler32 (byteInput input)) })

/-- CRC32 (R100, R104): the checksum in RES0, no output sequence. -/
def execCrc32 (s : State) : Host.Outcome State Fault Refusal :=
  .next (s.runOp fun input => .ok { r0 := wordLane (crc32 (byteInput input)) })

end Sys2Proof.Machine
end

