-- ==== Sys2Proof/Machine/FloatConv.lean ====
section
/-! DEFINITION. The IEEE-754 float byte-converter (43_floatconv.md): widening (R163), narrowing (R166), the canonical
NaN (R162), and B2F32, B2F64, F32TOB, F64TOB (R164, R165, R167, R168). Only bit patterns are moved and re-encoded. -/

namespace Sys2Proof.Machine

/-- The canonical quiet NaN of a lane (R162). -/
def canonicalNaN : Lane := 0x7FF8000000000000

/-- Class NaN of a binary64 pattern: `p[62:52] = 2047` and `p[51:0] != 0` (R161). -/
def isNaN64 (p : Lane) : Bool := p.extractLsb' 52 11 == 2047 && p.extractLsb' 0 52 != 0

/-- Class NaN of a binary32 pattern (R161). -/
def isNaN32 (p : Word32) : Bool := p.extractLsb' 23 8 == 255 && p.extractLsb' 0 23 != 0

/-- A binary64 pattern with every NaN made the canonical one (R162, R165, R168). -/
def canonical64 (p : Lane) : Lane := if isNaN64 p then canonicalNaN else p

/-- `widen32(p)`: the binary64 pattern of a binary32 value (R163). -/
def widen32 (p : Word32) : Lane :=
  let s := (p.extractLsb' 31 1).toNat
  let e := (p.extractLsb' 23 8).toNat
  let m := (p.extractLsb' 0 23).toNat
  if e = 255 ∧ m ≠ 0 then canonicalNaN
  else if e = 255 then BitVec.ofNat 64 (s <<< 63 ||| 0x7FF <<< 52)
  else if e = 0 ∧ m = 0 then BitVec.ofNat 64 (s <<< 63)
  else if e = 0 then
    let k := m.log2
    BitVec.ofNat 64 (s <<< 63 ||| (k + 874) <<< 52 ||| (m - 2 ^ k) <<< (52 - k))
  else BitVec.ofNat 64 (s <<< 63 ||| (e + 896) <<< 52 ||| m <<< 29)

/-- Drop the low `shift` bits of `sig`, rounding to nearest, ties to even (R166, `q` and its increment). -/
def roundShift (sig shift : Nat) : Nat :=
  let q := sig >>> shift
  let rem := sig % 2 ^ shift
  let half := 2 ^ (shift - 1)
  if rem > half ∨ (rem = half ∧ q % 2 = 1) then q + 1 else q

/-- The magnitude field of `narrow64` for a normal binary64 value with exponent field `e` and fraction `f` (R166): the
rounded significand, placed, and capped at infinity. `E = e - 1023`. -/
def narrowMagnitude (e f : Nat) : Nat :=
  let sig := 2 ^ 52 + f
  let mag :=
    if e ≥ 897 then (e - 897) <<< 23 + roundShift sig 29
    else roundShift sig (29 + (897 - e))
  if mag ≥ 0x7F800000 then 0x7F800000 else mag

/-- `narrow64(p)`: the binary32 pattern nearest in value (R166). -/
def narrow64 (p : Lane) : Word32 :=
  let s := (p.extractLsb' 63 1).toNat
  let e := (p.extractLsb' 52 11).toNat
  let f := (p.extractLsb' 0 52).toNat
  if e = 2047 ∧ f ≠ 0 then 0x7FC00000
  else if e = 2047 then BitVec.ofNat 32 (s <<< 31 ||| 0x7F800000)
  else if e = 0 then BitVec.ofNat 32 (s <<< 31)
  else BitVec.ofNat 32 (s <<< 31 ||| narrowMagnitude e f)

/-- B2F32 (R164). -/
def execB2f32 (le : Bool) (s : State) : Host.Outcome State Fault Refusal :=
  .next (s.runOp fun input =>
    outputs ((completeGroups 4 (byteInput input)).map fun g => widen32 (BitVec.ofNat 32 (assemble le g))))

/-- B2F64 (R165). -/
def execB2f64 (le : Bool) (s : State) : Host.Outcome State Fault Refusal :=
  .next (s.runOp fun input =>
    outputs ((completeGroups 8 (byteInput input)).map fun g => canonical64 (BitVec.ofNat 64 (assemble le g))))

/-- F32TOB (R167). -/
def execF32tob (le : Bool) (s : State) : Host.Outcome State Fault Refusal :=
  .next (s.runOp fun input =>
    outputs ((input.flatMap fun v => bytesOf 4 le (narrow64 v).toNat).map byteLane))

/-- F64TOB (R168). -/
def execF64tob (le : Bool) (s : State) : Host.Outcome State Fault Refusal :=
  .next (s.runOp fun input =>
    outputs ((input.flatMap fun v => bytesOf 8 le (canonical64 v).toNat).map byteLane))

end Sys2Proof.Machine
end

