-- ==== Sys2Proof/Machine/IntConv.lean ====
section
/-! DEFINITION. The fixed-width integer byte-converter (42_intconv.md): the two functions of R131 and R132 and the
sixteen ops over them (R133 to R148). -/

namespace Sys2Proof.Machine

/-- `b2int(w, signed)` of R131: every complete group of `w` bytes becomes one integer lane. -/
def bytesToInts (w : Nat) (signed le : Bool) (bs : List Byte) : List Lane :=
  (completeGroups w bs).map fun g => integerLane w signed (assemble le g)

/-- `int2b(w)` of R132: the low `8 * w` bits of every lane become `w` bytes. -/
def intsToBytes (w : Nat) (le : Bool) (input : List Lane) : List Byte :=
  input.flatMap fun v => bytesOf w le v.toNat

/-- A bytes-to-integers command. -/
def runBytesToInts (w : Nat) (signed le : Bool) (s : State) : Host.Outcome State Fault Refusal :=
  .next (s.runOp fun input => outputs (bytesToInts w signed le (byteInput input)))

/-- An integers-to-bytes command. -/
def runIntsToBytes (w : Nat) (le : Bool) (s : State) : Host.Outcome State Fault Refusal :=
  .next (s.runOp fun input => outputs ((intsToBytes w le input).map byteLane))

/-- B2U8 (R133). -/
def execB2u8 (le : Bool) (s : State) : Host.Outcome State Fault Refusal := runBytesToInts 1 false le s
/-- B2I8 (R134). -/
def execB2i8 (le : Bool) (s : State) : Host.Outcome State Fault Refusal := runBytesToInts 1 true le s
/-- B2U16 (R135). -/
def execB2u16 (le : Bool) (s : State) : Host.Outcome State Fault Refusal := runBytesToInts 2 false le s
/-- B2I16 (R136). -/
def execB2i16 (le : Bool) (s : State) : Host.Outcome State Fault Refusal := runBytesToInts 2 true le s
/-- B2U32 (R137). -/
def execB2u32 (le : Bool) (s : State) : Host.Outcome State Fault Refusal := runBytesToInts 4 false le s
/-- B2I32 (R138). -/
def execB2i32 (le : Bool) (s : State) : Host.Outcome State Fault Refusal := runBytesToInts 4 true le s
/-- B2U64 (R139). -/
def execB2u64 (le : Bool) (s : State) : Host.Outcome State Fault Refusal := runBytesToInts 8 false le s
/-- B2I64 (R140). -/
def execB2i64 (le : Bool) (s : State) : Host.Outcome State Fault Refusal := runBytesToInts 8 true le s
/-- U8TOB (R141). -/
def execU8tob (le : Bool) (s : State) : Host.Outcome State Fault Refusal := runIntsToBytes 1 le s
/-- I8TOB (R142): identical output to U8TOB (R132). -/
def execI8tob (le : Bool) (s : State) : Host.Outcome State Fault Refusal := runIntsToBytes 1 le s
/-- U16TOB (R143). -/
def execU16tob (le : Bool) (s : State) : Host.Outcome State Fault Refusal := runIntsToBytes 2 le s
/-- I16TOB (R144): identical output to U16TOB (R132). -/
def execI16tob (le : Bool) (s : State) : Host.Outcome State Fault Refusal := runIntsToBytes 2 le s
/-- U32TOB (R145). -/
def execU32tob (le : Bool) (s : State) : Host.Outcome State Fault Refusal := runIntsToBytes 4 le s
/-- I32TOB (R146): identical output to U32TOB (R132). -/
def execI32tob (le : Bool) (s : State) : Host.Outcome State Fault Refusal := runIntsToBytes 4 le s
/-- U64TOB (R147). -/
def execU64tob (le : Bool) (s : State) : Host.Outcome State Fault Refusal := runIntsToBytes 8 le s
/-- I64TOB (R148): identical output to U64TOB (R132). -/
def execI64tob (le : Bool) (s : State) : Host.Outcome State Fault Refusal := runIntsToBytes 8 le s

end Sys2Proof.Machine
end

