-- ==== Sys2Proof/Machine/Png.lean ====
section
/-! DEFINITION. The PNG pixel generator (47_png.md): PNGRGBA (R250 to R255), over the two checksum engines. -/

namespace Sys2Proof.Machine

/-- The 8-byte PNG signature (R251). -/
def pngSignature : List Byte := [0x89, 0x50, 0x4E, 0x47, 0x0D, 0x0A, 0x1A, 0x0A]

/-- `IHDR_DATA`, 13 bytes: 4 by 4, 8-bit RGBA (R252). -/
def ihdrData : List Byte := [0, 0, 0, 4, 0, 0, 0, 4, 8, 6, 0, 0, 0]

/-- The type codes "IHDR", "IDAT" and "IEND" (R252, R254, R255). -/
def typeIHDR : List Byte := [0x49, 0x48, 0x44, 0x52]
def typeIDAT : List Byte := [0x49, 0x44, 0x41, 0x54]
def typeIEND : List Byte := [0x49, 0x45, 0x4E, 0x44]

/-- `chunk(type, data)` of R250. -/
def pngChunk (type data : List Byte) : List Byte :=
  be32 (BitVec.ofNat 32 data.length) ++ type ++ data ++ be32 (crc32 (type ++ data))

/-- One row: filter byte 0, then four pixels (R253). -/
def pngRow (px : List Byte) : List Byte := [0] ++ px ++ px ++ px ++ px

/-- The raw scanline data: four identical rows (R253). -/
def pngRaw (px : List Byte) : List Byte := pngRow px ++ pngRow px ++ pngRow px ++ pngRow px

/-- The zlib stream: header 78 01, one stored block, the Adler-32 of the raw data (R254). -/
def pngZlib (px : List Byte) : List Byte :=
  [0x78, 0x01, 0x01, 0x44, 0x00, 0xBB, 0xFF] ++ pngRaw px ++ be32 (adler32 (pngRaw px))

/-- The whole stream of R250. -/
def pngStream (px : List Byte) : List Byte :=
  pngSignature ++ pngChunk typeIHDR ihdrData ++ pngChunk typeIDAT (pngZlib px) ++ pngChunk typeIEND []

/-- PNGRGBA (R250): the colour is in ARG0, IBUF is not read. -/
def execPngrgba (s : State) : Host.Outcome State Fault Refusal :=
  .next (s.runOp fun _ => outputs ((pngStream (pixelOf s.arg0)).map byteLane))

end Sys2Proof.Machine
end

