-- ==== Sys2Proof/Machine/Sha1.lean ====
section
/-! DEFINITION. The SHA-1 message-digest engine (44_sha1.md): padding (R182), initial values (R183), schedule (R184),
compression (R185), output format (R186), and the op SHA1 (R181). The working registers of R35 are local. -/

namespace Sys2Proof.Machine

/-- `rotl32(x, n)` for `0 < n < 32` (R16). -/
def rotl32 (x : Word32) (n : Nat) : Word32 := x <<< n ||| x >>> (32 - n)

/-- Five 32-bit words: the accumulators `h0` to `h4`, or the working variables `a` to `e` (R35). -/
structure Sha1Words where
  a : Word32
  b : Word32
  c : Word32
  d : Word32
  e : Word32
deriving DecidableEq, Repr

/-- The initial accumulators (R183). -/
def sha1Init : Sha1Words := ⟨0x67452301, 0xEFCDAB89, 0x98BADCFE, 0x10325476, 0xC3D2E1F0⟩

/-- `pad(b[0..n-1])` (R182): one byte 0x80, `(55 - n) mod 64` zero bytes, the bit length as 8 big-endian bytes. -/
def sha1Pad (bs : List Byte) : List Byte :=
  let n := bs.length
  bs ++ [0x80] ++ List.replicate ((64 - (n + 9) % 64) % 64) 0 ++ bytesOf 8 false (8 * n)

/-- The first 16 words of a block, big-endian (R184). -/
def sha1BlockWords (block : List Byte) : List Word32 :=
  (completeGroups 4 block).map fun g => BitVec.ofNat 32 (assemble false g)

/-- Extend a schedule by `k` words; the list is held newest first, so `w[t-3]` is its entry 2 (R184). -/
def sha1Extend : Nat → List Word32 → List Word32
  | 0, w => w
  | k + 1, w =>
    sha1Extend k (rotl32 (w.getD 2 0 ^^^ w.getD 7 0 ^^^ w.getD 13 0 ^^^ w.getD 15 0) 1 :: w)

/-- `schedule(B)`: the 80 words `w[0..79]` of a block (R184). -/
def sha1Schedule (block : List Byte) : List Word32 := (sha1Extend 64 (sha1BlockWords block).reverse).reverse

/-- The nonlinear function of round `t` (R185). -/
def sha1F (t : Nat) (b c d : Word32) : Word32 :=
  if t < 20 then (b &&& c) ||| (~~~b &&& d)
  else if t < 40 then b ^^^ c ^^^ d
  else if t < 60 then (b &&& c) ||| (b &&& d) ||| (c &&& d)
  else b ^^^ c ^^^ d

/-- The constant of round `t` (R185). -/
def sha1K (t : Nat) : Word32 :=
  if t < 20 then 0x5A827999 else if t < 40 then 0x6ED9EBA1 else if t < 60 then 0x8F1BBCDC else 0xCA62C1D6

/-- One round (R185). -/
def sha1Round (t : Nat) (w : Word32) (v : Sha1Words) : Sha1Words :=
  ⟨rotl32 v.a 5 + sha1F t v.b v.c v.d + v.e + sha1K t + w, v.a, rotl32 v.b 30, v.c, v.d⟩

/-- The rounds from `t` on, one for each schedule word (R185). -/
def sha1Rounds : Nat → List Word32 → Sha1Words → Sha1Words
  | _, [], v => v
  | t, w :: ws, v =>
    let v' := sha1Round t w v
    forceWord v'.a fun a => sha1Rounds (t + 1) ws { v' with a := a }

/-- `compress((h0..h4), w)` for one block (R185). -/
def sha1Compress (h : Sha1Words) (block : List Byte) : Sha1Words :=
  let v := sha1Rounds 0 (sha1Schedule block) h
  ⟨h.a + v.a, h.b + v.b, h.c + v.c, h.d + v.d, h.e + v.e⟩

/-- The accumulators after every block of a list, in order (R181). -/
def sha1Blocks (h : Sha1Words) : List (List Byte) → Sha1Words
  | [] => h
  | block :: t =>
    let h' := sha1Compress h block
    forceWord h'.a fun a => forceWord h'.b fun b => forceWord h'.c fun c => forceWord h'.d fun d =>
      forceWord h'.e fun e => sha1Blocks ⟨a, b, c, d, e⟩ t

/-- The final accumulators of a message (R181). -/
def sha1Digest (bs : List Byte) : Sha1Words := sha1Blocks sha1Init (completeGroups 64 (sha1Pad bs))

/-- `hexchar(d)`: 48 + d for 0 to 9, 87 + d for 10 to 15 (R186). -/
def hexChar (d : Nat) : Byte := BitVec.ofNat 8 (if d < 10 then 48 + d else 87 + d)

/-- The 8 hexadecimal digits of a word, most significant first (R186). -/
def hexWord (h : Word32) : List Byte := (List.range 8).map fun j => hexChar (h.toNat >>> (4 * (7 - j)) &&& 15)

/-- `format(h0..h4)`: the 40 character codes (R186). -/
def sha1Text (h : Sha1Words) : List Byte := hexWord h.a ++ hexWord h.b ++ hexWord h.c ++ hexWord h.d ++ hexWord h.e

/-- `format(h0..h4)`: the output sequence and RES0 to RES4 (R186). -/
def sha1Format (h : Sha1Words) : OpResult where
  out := (sha1Text h).map byteLane
  r0 := wordLane h.a
  r1 := wordLane h.b
  r2 := wordLane h.c
  r3 := wordLane h.d
  r4 := wordLane h.e

/-- SHA1 (R181). -/
def execSha1 (s : State) : Host.Outcome State Fault Refusal :=
  .next (s.runOp fun input => .ok (sha1Format (sha1Digest (byteInput input))))

end Sys2Proof.Machine
end

