-- ==== Sys2Proof/Machine/Transcode.lean ====
section
/-! DEFINITION. What the six transcoder ops share (R201): the loop of the bytes-to-codepoints direction over units of
input, lenient or strict, and the loop of the codepoints-to-bytes direction over lanes. -/

namespace Sys2Proof.Machine

/-- A surrogate half: 0xD800 to 0xDFFF (R19). -/
def isSurrogate (cp : Nat) : Bool := 0xD800 ≤ cp && cp ≤ 0xDFFF

/-- The replacement character U+FFFD (R14, R19). -/
def replacement : Nat := 0xFFFD

/-- The largest codepoint (R14). -/
def maxCodepoint : Nat := 0x10FFFF

/-- One unit of encoded input: how many bytes it takes up (at least 1), and its codepoint, or none when it is malformed
(R205, R227). -/
structure CodeUnit where
  len : Nat
  value : Option Nat
deriving DecidableEq, Repr

/-- The bytes-to-codepoints loop from index `i` on. `unitAt` reads the unit that starts with a given byte; `skip` is how
many bytes of the current unit (or of a byte-order mark) are still to be passed over. A malformed unit raises E_FORMAT at
its first byte when `strict`, else gives U+FFFD (R201 (c) and (d), R203, R223, R225). -/
def decodeFrom (unitAt : Byte → List Byte → CodeUnit) (strict : Bool) (i skip : Nat) :
    List Byte → Except OpError (List Nat)
  | [] => .ok []
  | b :: t =>
    match skip with
    | k + 1 => decodeFrom unitAt strict (i + 1) k t
    | 0 =>
      match (unitAt b t).value with
      | some cp => prependOk [cp] (decodeFrom unitAt strict (i + 1) ((unitAt b t).len - 1) t)
      | none =>
        if strict then .error ⟨.format, i, b.toNat⟩
        else prependOk [replacement] (decodeFrom unitAt strict (i + 1) ((unitAt b t).len - 1) t)

/-- The codepoints-to-bytes loop from lane `k` on: the range check, then the surrogate check, then the lane's form
`put` (R201 (f) and (g), R206, R224, R226). A lane is compared as a 64-bit unsigned value. -/
def encodeFrom (put : Nat → List Byte) (strict surr : Bool) (k : Nat) : List Lane → Except OpError (List Byte)
  | [] => .ok []
  | v :: t =>
    if v.toNat > maxCodepoint then .error ⟨.range, k, v.toNat⟩
    else if isSurrogate v.toNat && !surr then
      if strict then .error ⟨.format, k, v.toNat⟩
      else prependOk (put replacement) (encodeFrom put strict surr (k + 1) t)
    else prependOk (put v.toNat) (encodeFrom put strict surr (k + 1) t)

/-- A bytes-to-codepoints command: codepoints leave through the codepoint port (R27). -/
def codepointOutputs : Except OpError (List Nat) → Except OpError OpResult
  | .ok cps => outputs (cps.map codepointLane)
  | .error e => .error e

/-- A codepoints-to-bytes command: the byte-order mark first, if any, then the encoded lanes (R204, R222). -/
def encodedOutputs (mark : List Byte) : Except OpError (List Byte) → Except OpError OpResult
  | .ok bs => outputs ((mark ++ bs).map byteLane)
  | .error e => .error e

end Sys2Proof.Machine
end

