-- ==== Sys2Proof/Machine/Utf1632.lean ====
section
/-! DEFINITION. The UTF-16 and UTF-32 transcoders (46_utf16_utf32.md): UTF16_B2C (R223), UTF16_C2B (R224), UTF32_B2C
(R225), UTF32_C2B (R226), with the byte-order marks of R222. -/

namespace Sys2Proof.Machine

/-- `unit(p)`: a 16-bit unit of two bytes in the byte order `le` (R223). -/
def unit16 (le : Bool) (b0 b1 : Byte) : Nat := assemble le [b0, b1]

/-- A surrogate half that is not part of a pair: it passes with ALLOW_SURR, else it is malformed (R223, R227). -/
def unpaired (surr : Bool) (u : Nat) : CodeUnit := ⟨2, if surr then some u else none⟩

/-- The UTF-16 unit or pair that starts with the byte `b0` (R223). -/
def utf16Unit (le surr : Bool) (b0 : Byte) : List Byte → CodeUnit
  | [] => ⟨1, none⟩
  | b1 :: t =>
    let u := unit16 le b0 b1
    if 0xD800 ≤ u ∧ u ≤ 0xDBFF then
      match t with
      | b2 :: b3 :: _ =>
        let lo := unit16 le b2 b3
        if 0xDC00 ≤ lo ∧ lo ≤ 0xDFFF then ⟨4, some (0x10000 + (u - 0xD800) <<< 10 + (lo - 0xDC00))⟩
        else unpaired surr u
      | _ => unpaired surr u
    else if 0xDC00 ≤ u ∧ u ≤ 0xDFFF then unpaired surr u
    else ⟨2, some u⟩

/-- The UTF-32 unit that starts with the byte `b0`; 1 to 3 bytes left over are one malformed unit (R225, R227). -/
def utf32Unit (le surr : Bool) (b0 : Byte) : List Byte → CodeUnit
  | b1 :: b2 :: b3 :: _ =>
    let u := assemble le [b0, b1, b2, b3]
    if u > maxCodepoint || (isSurrogate u && !surr) then ⟨4, none⟩ else ⟨4, some u⟩
  | rest => ⟨rest.length + 1, none⟩

/-- The byte-order mark: U+FEFF as one unit of `w` bytes in the byte order `le` (R222). -/
def markOf (w : Nat) (le : Bool) : List Byte := bytesOf w le 0xFEFF

/-- BOM handling of the bytes-to-codepoints ops with units of `w` bytes: how many bytes are consumed as a mark, and the
byte order of the whole input. A mark overrides LE; without one LE decides (R222). -/
def takeMark (w : Nat) (bom le : Bool) (bs : List Byte) : Nat × Bool :=
  if bom && bs.take w == markOf w false then (w, false)
  else if bom && bs.take w == markOf w true then (w, true)
  else (0, le)

/-- UTF16_B2C on a byte sequence (R223). -/
def utf16Decode (le strict surr bom : Bool) (bs : List Byte) : Except OpError (List Nat) :=
  let m := takeMark 2 bom le bs
  decodeFrom (utf16Unit m.2 surr) strict 0 m.1 bs

/-- UTF32_B2C on a byte sequence (R225). -/
def utf32Decode (le strict surr bom : Bool) (bs : List Byte) : Except OpError (List Nat) :=
  let m := takeMark 4 bom le bs
  decodeFrom (utf32Unit m.2 surr) strict 0 m.1 bs

/-- The UTF-16 form of a codepoint, `put16` of one unit or of a surrogate pair (R221, R224). -/
def enc16 (le : Bool) (cp : Nat) : List Byte :=
  if cp < 0x10000 then bytesOf 2 le cp
  else bytesOf 2 le (0xD800 + (cp - 0x10000) >>> 10) ++ bytesOf 2 le (0xDC00 + ((cp - 0x10000) &&& 0x3FF))

/-- The UTF-32 form of a codepoint, `put32` (R221, R226). -/
def enc32 (le : Bool) (cp : Nat) : List Byte := bytesOf 4 le cp

/-- UTF16_B2C (R223). -/
def execUtf16B2c (le strict surr bom : Bool) (s : State) : Host.Outcome State Fault Refusal :=
  .next (s.runOp fun input => codepointOutputs (utf16Decode le strict surr bom (byteInput input)))

/-- UTF16_C2B (R224). -/
def execUtf16C2b (le strict surr bom : Bool) (s : State) : Host.Outcome State Fault Refusal :=
  .next (s.runOp fun input =>
    encodedOutputs (if bom then markOf 2 le else []) (encodeFrom (enc16 le) strict surr 0 input))

/-- UTF32_B2C (R225). -/
def execUtf32B2c (le strict surr bom : Bool) (s : State) : Host.Outcome State Fault Refusal :=
  .next (s.runOp fun input => codepointOutputs (utf32Decode le strict surr bom (byteInput input)))

/-- UTF32_C2B (R226). -/
def execUtf32C2b (le strict surr bom : Bool) (s : State) : Host.Outcome State Fault Refusal :=
  .next (s.runOp fun input =>
    encodedOutputs (if bom then markOf 4 le else []) (encodeFrom (enc32 le) strict surr 0 input))

end Sys2Proof.Machine
end

