-- ==== Sys2Proof/Machine/Utf8.lean ====
section
/-! DEFINITION. The UTF-8 transcoder (45_utf8.md): UTF8_B2C (R203 to R205) and UTF8_C2B (R206, R207). -/

namespace Sys2Proof.Machine

/-- A continuation byte: `b & 0xC0 = 0x80` (R202). -/
def isContinuation (b : Byte) : Bool := b &&& 0xC0 == 0x80

/-- `MIN[size]`, the smallest codepoint that needs the size (R202). -/
def utf8Min (size : Nat) : Nat := if size = 2 then 0x80 else if size = 3 then 0x800 else 0x10000

/-- Take in at most `k` continuation bytes, six bits each (R203): how many there were, and the value. -/
def takeContinuation : Nat → Nat → List Byte → Nat × Nat
  | 0, cp, _ => (0, cp)
  | _ + 1, cp, [] => (0, cp)
  | k + 1, cp, b :: t =>
    if isContinuation b then
      let r := takeContinuation k (cp <<< 6 ||| b.toNat &&& 0x3F) t
      (r.1 + 1, r.2)
    else (0, cp)

/-- A sequence of `size` bytes whose lead byte carries the bits `cp0`: truncated, rejected as a whole, or a codepoint
(R203, R205). -/
def utf8Sequence (overlong surr : Bool) (size cp0 : Nat) (rest : List Byte) : CodeUnit :=
  let r := takeContinuation (size - 1) cp0 rest
  if r.1 + 1 < size then ⟨r.1 + 1, none⟩
  else if r.2 > maxCodepoint || (r.2 < utf8Min size && !overlong) || (isSurrogate r.2 && !surr) then ⟨size, none⟩
  else ⟨size, some r.2⟩

/-- The unit that starts with the byte `b0` (R203, R205). -/
def utf8Unit (overlong surr : Bool) (b0 : Byte) (rest : List Byte) : CodeUnit :=
  let n := b0.toNat
  if n ≤ 0x7F then ⟨1, some n⟩
  else if 0xC0 ≤ n ∧ n ≤ 0xDF then utf8Sequence overlong surr 2 (n &&& 0x1F) rest
  else if 0xE0 ≤ n ∧ n ≤ 0xEF then utf8Sequence overlong surr 3 (n &&& 0x0F) rest
  else if 0xF0 ≤ n ∧ n ≤ 0xF7 then utf8Sequence overlong surr 4 (n &&& 0x07) rest
  else ⟨1, none⟩

/-- The UTF-8 byte-order mark (R204). -/
def utf8Mark : List Byte := [0xEF, 0xBB, 0xBF]

/-- How many bytes the BOM flag strips: the three bytes of a complete mark at index 0, else none (R204). -/
def utf8Skip (bom : Bool) (bs : List Byte) : Nat := if bom && bs.take 3 == utf8Mark then 3 else 0

/-- UTF8_B2C on a byte sequence (R203). -/
def utf8Decode (strict overlong surr bom : Bool) (bs : List Byte) : Except OpError (List Nat) :=
  decodeFrom (utf8Unit overlong surr) strict 0 (utf8Skip bom bs) bs

/-- `enc8(cp)`, the minimal UTF-8 form (R207). -/
def enc8 (cp : Nat) : List Byte :=
  if cp < 0x80 then [BitVec.ofNat 8 cp]
  else if cp < 0x800 then [BitVec.ofNat 8 (0xC0 ||| cp >>> 6), BitVec.ofNat 8 (0x80 ||| cp &&& 0x3F)]
  else if cp < 0x10000 then
    [BitVec.ofNat 8 (0xE0 ||| cp >>> 12), BitVec.ofNat 8 (0x80 ||| cp >>> 6 &&& 0x3F),
      BitVec.ofNat 8 (0x80 ||| cp &&& 0x3F)]
  else
    [BitVec.ofNat 8 (0xF0 ||| cp >>> 18), BitVec.ofNat 8 (0x80 ||| cp >>> 12 &&& 0x3F),
      BitVec.ofNat 8 (0x80 ||| cp >>> 6 &&& 0x3F), BitVec.ofNat 8 (0x80 ||| cp &&& 0x3F)]

/-- UTF8_B2C (R203). -/
def execUtf8B2c (strict overlong surr bom : Bool) (s : State) : Host.Outcome State Fault Refusal :=
  .next (s.runOp fun input => codepointOutputs (utf8Decode strict overlong surr bom (byteInput input)))

/-- UTF8_C2B (R206). -/
def execUtf8C2b (strict surr bom : Bool) (s : State) : Host.Outcome State Fault Refusal :=
  .next (s.runOp fun input =>
    encodedOutputs (if bom then utf8Mark else []) (encodeFrom enc8 strict surr 0 input))

end Sys2Proof.Machine
end

