-- ==== Sys2Proof/Machine/Vlq.lean ====
section
/-! DEFINITION. The base64-VLQ codec (41_base64.md): VLQENC (R114 to R116), VLQDEC (R117). -/

namespace Sys2Proof.Machine

/-- The folded number `u = (|v| << 1) | (1 if v < 0 else 0)`, up to 65 bits, a mathematical number (R114 to R116). -/
def vlqFold (v : Int) : Nat := v.natAbs <<< 1 ||| (if v < 0 then 1 else 0)

/-- The quanta of a folded number, least significant five bits first, all but the last with the continuation flag 32
(R114, R116). The first argument bounds the number of quanta; 13 hold every folded number (`u <= 2^64 + 1`, R115). -/
def vlqQuanta : Nat → Nat → List Nat
  | 0, _ => []
  | k + 1, u =>
    if u >>> 5 = 0 then [u &&& 31] else (u &&& 31 ||| 32) :: vlqQuanta k (u >>> 5)

/-- The symbols of one integer (R116). -/
def vlqEncode (v : Int) : List Byte := (vlqQuanta 13 (vlqFold v)).map alphaOf

/-- What one finished integer decodes to: `acc` holds the sign in bit 0 and the magnitude above it; a magnitude that
does not fit a signed 64-bit lane has no value; 2^63 fits only as -2^63 (R117). -/
def vlqUnfold (acc : Nat) : Option Lane :=
  let neg := acc &&& 1
  let mag := acc >>> 1
  if mag > 2 ^ 63 ∨ (mag = 2 ^ 63 ∧ neg = 0) then none
  else some (if neg = 1 then BitVec.ofInt 64 (-(mag : Int)) else BitVec.ofNat 64 mag)

/-- The decoding loop of R117 from index `i` on. `acc` and `shift` are its working registers (R36); `start` is the index
where the open integer began, or none when no integer is open (`open` and `start` of the rule). -/
def vlqDecodeFrom (i acc shift : Nat) (start : Option Nat) : List Byte → Except OpError (List Lane)
  | [] =>
    match start with
    | none => .ok []
    | some p => .error ⟨.format, p, 0⟩
  | c :: t =>
    match indexOf c with
    | none => .error ⟨.badchar, i, c.toNat⟩
    | some d =>
      let begun := start.getD i
      let acc' := acc ||| (d &&& 31) <<< shift
      if d &&& 32 ≠ 0 then vlqDecodeFrom (i + 1) acc' (shift + 5) (some begun) t
      else
        match vlqUnfold acc' with
        | none => .error ⟨.range, begun, 0⟩
        | some v => prependOk [v] (vlqDecodeFrom (i + 1) 0 0 none t)

/-- VLQDEC on a whole string (R117). -/
def vlqDecode (bs : List Byte) : Except OpError (List Lane) := vlqDecodeFrom 0 0 0 none bs

/-- VLQENC (R116): every lane read as a signed 64-bit integer. -/
def execVlqenc (s : State) : Host.Outcome State Fault Refusal :=
  .next (s.runOp fun input => outputs ((input.flatMap fun v => vlqEncode (signedPort v)).map byteLane))

/-- VLQDEC (R117); E_BADCHAR, E_RANGE and E_FORMAT are its own errors. -/
def execVlqdec (s : State) : Host.Outcome State Fault Refusal :=
  .next (s.runOp fun input => raisingOutputs (vlqDecode (byteInput input)))

end Sys2Proof.Machine
end

