-- ==== Sys2Proof/Machine/WebSocket.lean ====
section
/-! DEFINITION. The WebSocket framer (48_websocket.md): WSENC (R263) and WSDEC (R264), over the wire layout of R261 and
the register layout of R262. -/

namespace Sys2Proof.Machine

/-- Exclusive-or payload byte `i` with `mask[i mod 4]`, counting from `i` (R261). -/
def applyMask (mask : List Byte) (i : Nat) : List Byte → List Byte
  | [] => []
  | b :: t => (b ^^^ mask.getD (i % 4) 0) :: applyMask mask (i + 1) t

/-- Byte 1 and the extended length of a frame whose payload has `n` bytes, in the minimal form (R263). `m` is the mask
bit. -/
def wsLength (m : Bool) (n : Nat) : List Byte :=
  let maskBit := if m then 1 <<< 7 else 0
  if n ≤ 125 then [BitVec.ofNat 8 (maskBit ||| n)]
  else if n ≤ 65535 then BitVec.ofNat 8 (maskBit ||| 126) :: bytesOf 2 false n
  else BitVec.ofNat 8 (maskBit ||| 127) :: bytesOf 8 false n

/-- WSENC on a payload (R263). The range check is the document's; it can never hold for a payload of ILEN lanes. -/
def wsEncode (nomask hasmask : Bool) (arg0 arg1 : Lane) (payload : List Byte) : Except OpError (List Byte) :=
  if payload.length > 2 ^ 64 - 1 then .error ⟨.range, 0, 0⟩
  else
    .ok (frameByte0 arg0 :: wsLength hasmask payload.length
      ++ (if hasmask then maskOf arg1 else [])
      ++ (if hasmask && !nomask then applyMask (maskOf arg1) 0 payload else payload))

/-- OPCLASS, the "human-readable name" of an opcode as a number (R262). -/
def opClass (opcode : Nat) : Nat :=
  if opcode ≤ 2 then opcode
  else if opcode = 8 then 3
  else if opcode = 9 then 4
  else if opcode = 10 then 5
  else 6

/-- RES0 of WSDEC from byte 0 and the mask bit (R262, R264). -/
def wsRes0 (byte0 : Nat) (m : Nat) : Lane :=
  let opcode := byte0 &&& 0x0F
  BitVec.ofNat 64 (byte0 >>> 7 ||| (byte0 >>> 6 &&& 1) <<< 1 ||| (byte0 >>> 5 &&& 1) <<< 2
    ||| (byte0 >>> 4 &&& 1) <<< 3 ||| opcode <<< 4 ||| m <<< 8 ||| opClass opcode <<< 9)

/-- `E`: how many bytes the extended length takes up (R261). -/
def wsExtension (len7 : Nat) : Nat := if len7 = 126 then 2 else if len7 = 127 then 8 else 0

/-- WSDEC on the bytes of a frame (R264). -/
def wsDecode (nomask : Bool) (bs : List Byte) : Except OpError OpResult :=
  match bs with
  | b0 :: b1 :: rest =>
    let m := b1.toNat >>> 7
    let len7 := b1.toNat &&& 0x7F
    let e := wsExtension len7
    let h := 2 + e + 4 * m
    if bs.length < h then .error ⟨.format, bs.length, h⟩
    else
      let l := if e = 0 then len7 else assemble false (rest.take e)
      let key := if m = 1 then (rest.drop e).take 4 else []
      let body := (bs.drop h).take (min l (bs.length - h))
      .ok {
        out := (if m = 1 ∧ nomask = false then applyMask key 0 body else body).map byteLane
        r0 := wsRes0 b0.toNat m
        r1 := BitVec.ofNat 64 l
        r2 := BitVec.ofNat 64 (assemble false key)
        r3 := BitVec.ofNat 64 h }
  | _ => .error ⟨.format, bs.length, 2⟩

/-- WSENC (R263): flags and opcode in ARG0, the key in ARG1, the payload in IBUF. -/
def execWsenc (nomask hasmask : Bool) (s : State) : Host.Outcome State Fault Refusal :=
  .next (s.runOp fun input =>
    raisingOutputs (match wsEncode nomask hasmask s.arg0 s.arg1 (byteInput input) with
      | .ok bs => .ok (bs.map byteLane)
      | .error e => .error e))

/-- WSDEC (R264). -/
def execWsdec (nomask : Bool) (s : State) : Host.Outcome State Fault Refusal :=
  .next (s.runOp fun input => wsDecode nomask (byteInput input))

end Sys2Proof.Machine
end

