-- ==== Sys2Proof/Machine/Dispatch.lean ====
section
/-! DEFINITION. The dispatch of a legal command to its op (R31 step 5): one arm per constructor, each one direct call of
the meaning in the op's family file. -/

namespace Sys2Proof.Machine

/-- The command step of a legal command word from R31 step 2 on. The CMD write itself (step 1) and the rejection of
illegal words (step 3) are `commandWrite`'s. -/
def exec (i : Instr) (s : State) : Host.Outcome State Fault Refusal :=
  match i with
  | .adler32 => Sys2Proof.Machine.execAdler32 s
  | .crc32 => Sys2Proof.Machine.execCrc32 s
  | .b64enc => Sys2Proof.Machine.execB64enc s
  | .b64dec => Sys2Proof.Machine.execB64dec s
  | .vlqenc => Sys2Proof.Machine.execVlqenc s
  | .vlqdec => Sys2Proof.Machine.execVlqdec s
  | .b2u8 le => Sys2Proof.Machine.execB2u8 le s
  | .b2i8 le => Sys2Proof.Machine.execB2i8 le s
  | .b2u16 le => Sys2Proof.Machine.execB2u16 le s
  | .b2i16 le => Sys2Proof.Machine.execB2i16 le s
  | .b2u32 le => Sys2Proof.Machine.execB2u32 le s
  | .b2i32 le => Sys2Proof.Machine.execB2i32 le s
  | .b2u64 le => Sys2Proof.Machine.execB2u64 le s
  | .b2i64 le => Sys2Proof.Machine.execB2i64 le s
  | .u8tob le => Sys2Proof.Machine.execU8tob le s
  | .i8tob le => Sys2Proof.Machine.execI8tob le s
  | .u16tob le => Sys2Proof.Machine.execU16tob le s
  | .i16tob le => Sys2Proof.Machine.execI16tob le s
  | .u32tob le => Sys2Proof.Machine.execU32tob le s
  | .i32tob le => Sys2Proof.Machine.execI32tob le s
  | .u64tob le => Sys2Proof.Machine.execU64tob le s
  | .i64tob le => Sys2Proof.Machine.execI64tob le s
  | .b2f32 le => Sys2Proof.Machine.execB2f32 le s
  | .b2f64 le => Sys2Proof.Machine.execB2f64 le s
  | .f32tob le => Sys2Proof.Machine.execF32tob le s
  | .f64tob le => Sys2Proof.Machine.execF64tob le s
  | .sha1 => Sys2Proof.Machine.execSha1 s
  | .utf8B2c strict overlong surr bom => Sys2Proof.Machine.execUtf8B2c strict overlong surr bom s
  | .utf8C2b strict surr bom => Sys2Proof.Machine.execUtf8C2b strict surr bom s
  | .utf16B2c le strict surr bom => Sys2Proof.Machine.execUtf16B2c le strict surr bom s
  | .utf16C2b le strict surr bom => Sys2Proof.Machine.execUtf16C2b le strict surr bom s
  | .utf32B2c le strict surr bom => Sys2Proof.Machine.execUtf32B2c le strict surr bom s
  | .utf32C2b le strict surr bom => Sys2Proof.Machine.execUtf32C2b le strict surr bom s
  | .pngrgba => Sys2Proof.Machine.execPngrgba s
  | .wsenc nomask hasmask => Sys2Proof.Machine.execWsenc nomask hasmask s
  | .wsdec nomask => Sys2Proof.Machine.execWsdec nomask s

end Sys2Proof.Machine
end

