-- ==== Sys2Proof/Machine/Access.lean ====
section
/-! DEFINITION. What the host and the platform do to a context: the command step (R31), the access primitives (R52), the
platform's byte-addressed accesses (R53, R57), and the reset event (R341). -/

namespace Sys2Proof.Machine

/-- The command step (R31): CMD takes the value; a legal command word runs its op, any other value is E_ILLEGAL. -/
def commandWrite (c : Lane) (s : State) : Host.Outcome State Fault Refusal :=
  match decode c with
  | .ok i => exec i { s with cmd := c }
  | .error _ => .next (State.illegalCommand { s with cmd := c } c)

/-- `HostWriteReg(i, v)` (R52). -/
def writeRegister (i : Nat) (v : Lane) (s : State) : Host.Outcome State Fault Refusal :=
  if i = 0 then commandWrite v s else .next (s.setRegister i v)

/-- The base address of a space (R53). -/
def spaceBase : Space → Nat
  | .registers => Config.regBase
  | .ibuf => Config.ibufBase
  | .obuf => Config.obufBase

/-- The byte address of register or lane `i` of a space: base + 8 * i (R53). -/
def byteAddress (sp : Space) (i : Nat) : Nat := spaceBase sp + 8 * i

/-- The register or lane index that a bus request names, or none when R57 does not define the access: not 8 bytes wide,
below the space's base, or not aligned to a register or lane. -/
def busIndex (q : BusRequest) : Option Nat :=
  if q.width = 8 ∧ spaceBase q.space ≤ q.address ∧ (q.address - spaceBase q.space) % 8 = 0
  then some ((q.address - spaceBase q.space) / 8) else none

/-- A primitive of R52 on index `i` of a space: a write of `data`, or a read when there is none. No primitive writes
OBUF, so that is refused (R52, R57; log 10). -/
def indexedAccess (sp : Space) (i : Nat) (data : Option Lane) (s : State) : Host.Outcome State Fault Refusal :=
  match sp, data with
  | .registers, none => .next (s.answer (s.register i))
  | .registers, some v => writeRegister i v s
  | .ibuf, none => .next (s.answer (s.readIbuf i))
  | .ibuf, some v => .next (s.writeIbuf i v)
  | .obuf, none => .next (s.answer (s.readObuf i))
  | .obuf, some _ => .refused .notAPrimitive

/-- An access by platform byte address (R53, R57). -/
def busAccess (q : BusRequest) (s : State) : Host.Outcome State Fault Refusal :=
  match busIndex q with
  | some i => indexedAccess q.space i q.data s
  | none => .refused .undefinedAccess

/-- One host access (R52, R57). -/
def hostAccess (a : HostAccess) (s : State) : Host.Outcome State Fault Refusal :=
  match a with
  | .readReg i => indexedAccess .registers i none s
  | .writeReg i v => indexedAccess .registers i (some v) s
  | .readIbuf i => indexedAccess .ibuf i none s
  | .writeIbuf i v => indexedAccess .ibuf i (some v) s
  | .readObuf i => indexedAccess .obuf i none s
  | .writeObuf i v => indexedAccess .obuf i (some v) s
  | .bus q => busAccess q s

/-- One event: a host access, or the platform's reset (R341). -/
def perform (e : Event) (s : State) : Host.Outcome State Fault Refusal :=
  match e with
  | .access a => hostAccess a s
  | .reset => .next s.platformReset

/-- The next event of the script, which leaves it; with none left the block "holds its state and does nothing"
(R326; log 5). -/
def nextEvent (s : State) : Host.Outcome State Fault Refusal :=
  match s.script with
  | [] => .next s
  | e :: rest => perform e { s with script := rest }

/-- `s` with a CMD write of the word `c` as its next event (log 3). -/
def State.withCommand (s : State) (c : Lane) : State :=
  { s with script := .access (.writeReg 0 c) :: s.script }

end Sys2Proof.Machine
end

