-- ==== Sys2Proof/Machine/Step.lean ====
section
/-! DEFINITION. One step of a context, and how an instruction is placed where the next step takes it. -/

namespace Sys2Proof.Machine

/-- One step: the next event of the one total order of accesses (R61, R352). -/
def step (s : State) : Host.Outcome State Fault Refusal := nextEvent s

/-- `s` with the command word `w` as the next thing the host writes to CMD, so that the very next step runs it. The block
fetches no instructions (R23, R64): a program is the host's script (R11), and this stands for the host's writing of it
(log 3). -/
def State.withFetchWord (s : State) (nbits w : Nat) : State := s.withCommand (tableWord nbits w)

end Sys2Proof.Machine
end

