-- ==== Sys2Proof/Machine/Block.lean ====
section
/-! DEFINITION. The whole block: `N_CTX` contexts that share nothing (R322). "A model of one context is a model of the
block; `N_CTX` copies of it, with no coupling, is the whole." (log 7) -/

namespace Sys2Proof.Machine

/-- The contexts of the block, `N_CTX` of them (R13, R322). -/
structure Block where
  contexts : List State
deriving DecidableEq, Repr

/-- "all contexts start in the state of rule R340" (R341). -/
def Block.reset : Block := ⟨List.replicate Config.numContexts State.reset⟩

/-- A step of context `k`; the others stay as they are (R322). Which context steps next is the callers' interleaving. -/
def Block.step (k : Nat) (b : Block) : Host.Outcome Block Fault Refusal :=
  match b.contexts[k]? with
  | none => .refused .noSuchContext
  | some s =>
    match Machine.step s with
    | .next s' => .next ⟨b.contexts.set k s'⟩
    | .fault r => .fault r
    | .refused r => .refused r

end Sys2Proof.Machine
end

