-- ==== Sys2Proof/WellFormed.lean ====
section
/-! DEFINITION. Which 64-bit values are legal command words (R76), written from the op table R75 alone, as the three
checks of R76. It does not use the decoder: that the two agree is a statement. Every term of `Instr` is well formed
(its arguments are just the accepted flags), so the checks are on command words. -/

namespace Sys2Proof

/-- One row of R75 for the legality check: the OP value and `A(op)`, the OR of the CMD values of the flags the op
accepts (R76). -/
structure OpRow where
  op : Lane
  accepted : Lane
deriving DecidableEq, Repr

/-- The 36 rows of R75, with the values of `A` that R76 lists. -/
def opRows : List OpRow :=
  [⟨0x10, 0⟩, ⟨0x11, 0⟩, ⟨0x20, 0⟩, ⟨0x21, 0⟩, ⟨0x22, 0⟩, ⟨0x23, 0⟩]
  ++ [⟨0x30, 0x0100⟩, ⟨0x31, 0x0100⟩, ⟨0x32, 0x0100⟩, ⟨0x33, 0x0100⟩,
      ⟨0x34, 0x0100⟩, ⟨0x35, 0x0100⟩, ⟨0x36, 0x0100⟩, ⟨0x37, 0x0100⟩]
  ++ [⟨0x38, 0x0100⟩, ⟨0x39, 0x0100⟩, ⟨0x3A, 0x0100⟩, ⟨0x3B, 0x0100⟩,
      ⟨0x3C, 0x0100⟩, ⟨0x3D, 0x0100⟩, ⟨0x3E, 0x0100⟩, ⟨0x3F, 0x0100⟩]
  ++ [⟨0x40, 0x0100⟩, ⟨0x41, 0x0100⟩, ⟨0x48, 0x0100⟩, ⟨0x49, 0x0100⟩, ⟨0x50, 0⟩]
  ++ [⟨0x60, 0x1E00⟩, ⟨0x61, 0x1A00⟩, ⟨0x62, 0x1B00⟩, ⟨0x63, 0x1B00⟩, ⟨0x64, 0x1B00⟩, ⟨0x65, 0x1B00⟩]
  ++ [⟨0x70, 0⟩, ⟨0x80, 0x6000⟩, ⟨0x81, 0x2000⟩]

/-- First check of R76: `c[63:15] = 0`. -/
def reservedBitsClear (c : Lane) : Bool := c >>> 15 == 0

/-- Second check of R76: `c[7:0]` is one of the defined OP values. -/
def opDefined (c : Lane) : Bool := opRows.any fun r => c &&& 0xFF == r.op

/-- Third check of R76: every flag bit of `c[14:8]` that the op's row does not accept is 0. -/
def flagsAccepted (c : Lane) : Bool :=
  opRows.all fun r => c &&& 0xFF != r.op || c &&& 0x7F00 &&& ~~~r.accepted == 0

/-- A legal command word: "exactly when all three hold" (R76). -/
def legalWord (c : Lane) : Bool := reservedBitsClear c && opDefined c && flagsAccepted c

end Sys2Proof
end

