-- ==== Sys2Proof/Safety.lean ====
section
/-! DEFINITION. The terms in which the statements are written: what a completed and a failed command leave, the
invariant of a context, and what each op's output is. The outputs are given by position and arithmetic (division,
remainder, sums), from the rules' prose and tables, and not by the meanings' own recursions, so that a statement compares
two different texts of one rule. -/

namespace Sys2Proof.Machine

/-! ### Commands -/

/-- ILEN does not exceed IBUF_CAP: the input check of every command passes (R31 step 4, R306). -/
abbrev State.ready (s : State) : Prop := s.ilen.toNat ≤ s.icap.toNat

/-- The state that a command without error leaves (R31 steps 2, 8 and 9): STATUS reads 0x01 (R303), the output sequence
is in OBUF, its length in OLEN, the results in RES0 to RES4, and everything else is as before (R32). -/
def State.completed (s : State) (out : List Lane) (r0 r1 r2 r3 r4 : Lane) : State :=
  { s with
    status := 0x01, errpos := 0, errinfo := 0
    olen := BitVec.ofNat 64 out.length, obuf := Memory.ofList out
    res0 := r0, res1 := r1, res2 := r2, res3 := r3, res4 := r4 }

/-- The state that a failed command leaves (R303): STATUS reads `st`, which is 0x13, 0x23, 0x33, 0x43 or 0x53; every
output is 0; everything else is as before. -/
def State.failed (s : State) (st pos info : Lane) : State :=
  { s with
    status := st, errpos := pos, errinfo := info, olen := 0, obuf := []
    res0 := 0, res1 := 0, res2 := 0, res3 := 0, res4 := 0 }

/-- A sequence of lanes given by its length and the value at each position. -/
def laneTable (n : Nat) (f : Nat → Nat) : List Lane := (List.range n).map fun j => BitVec.ofNat 64 (f j)

/-- `b[k]` as a number, and 0 at and beyond ILEN (R17, R27). -/
def State.byteAt (s : State) (k : Nat) : Nat := if k < s.ilen.toNat then (s.ibuf.read k).toNat % 256 else 0

/-- `b[0..n-1]` as a list of numbers (R17, R27). -/
def State.byteValues (s : State) : List Nat := (List.range s.ilen.toNat).map s.byteAt

/-- The host has copied the output of the state `t` to the input of the state `u` (R285: "Moving OBUF lanes back into
IBUF for a second command is host work"). -/
abbrev FeedsInto (t u : State) : Prop := u.input = t.output

/-- `u` is ready, and its output buffer has room for `n` lanes. -/
abbrev State.roomFor (s : State) (n : Nat) : Prop := s.ready ∧ n ≤ s.ocap.toNat

/-- The ops that "can never end with an error of their own" (R302). -/
def neverRaises : Instr → Bool
  | .vlqenc => false
  | .vlqdec => false
  | .utf8B2c strict _ _ _ => !strict
  | .utf16B2c _ strict _ _ => !strict
  | .utf32B2c _ strict _ _ => !strict
  | .utf8C2b _ _ _ => false
  | .utf16C2b _ _ _ _ => false
  | .utf32C2b _ _ _ _ => false
  | .wsenc _ _ => false
  | .wsdec _ => false
  | _ => true

/-- Whether a host access is a read (R52, R59). -/
def HostAccess.isRead : HostAccess → Bool
  | .readReg _ => true
  | .readIbuf _ => true
  | .readObuf _ => true
  | .bus q => q.data.isNone
  | _ => false

/-- Whether a host access is a write to CMD (R52). -/
def HostAccess.writesCmd : HostAccess → Bool
  | .writeReg i _ => i == 0
  | .bus q => q.space == .registers && q.data.isSome && busIndex q == some 0
  | _ => false

/-! ### The invariant of a context -/

/-- What holds of every context from reset on. -/
structure State.Inv (s : State) : Prop where
  /-- IBUF is in canonical form. -/
  ibuf_wf : s.ibuf.wf = true
  /-- IBUF has `IBUF_CAP` lanes (R24). -/
  ibuf_within : s.ibuf.within s.icap.toNat = true
  /-- OBUF is in canonical form. -/
  obuf_wf : s.obuf.wf = true
  /-- OBUF is 0 at and above OLEN (R25). -/
  obuf_within : s.obuf.within s.olen.toNat = true
  /-- An output is delivered only if it fits OBUF (R306). -/
  olen_le : s.olen.toNat ≤ s.ocap.toNat
  /-- STATUS reads one of the seven values of R303. -/
  status_value : s.status ∈ [(0x00 : Lane), 0x01, 0x13, 0x23, 0x33, 0x43, 0x53]
  /-- Without an error the report is 0 (R30). -/
  no_report : s.status.toNat ≤ 1 → s.errpos = 0 ∧ s.errinfo = 0
  /-- Unless the last command ended without error, there are no results (R303, R340). -/
  no_results : s.status ≠ 0x01 →
    s.olen = 0 ∧ s.res0 = 0 ∧ s.res1 = 0 ∧ s.res2 = 0 ∧ s.res3 = 0 ∧ s.res4 = 0
  /-- Before the first command CMD is 0 (R340). -/
  fresh : s.status = 0x00 → s.cmd = 0

/-! ### Checksums (40_checksums.md) -/

/-- `crcstep` on numbers (R103). -/
def crcShift (c : Nat) : Nat := if c % 2 = 1 then (c / 2) ^^^ 0xEDB88320 else c / 2

/-! ### Base64 and VLQ (41_base64.md) -/

/-- The 64 symbols `A-Za-z0-9+/` "in that order" (R110), as character codes. -/
def base64Alphabet : List Nat := List.range' 65 26 ++ List.range' 97 26 ++ List.range' 48 10 ++ [43, 47]

/-- `ALPHA[k]` (R110). -/
def alphabetAt (k : Nat) : Nat := base64Alphabet.getD k 0

/-- Character `j` of the base64 text of the bytes `x 0 .. x (n-1)` (R111): group `j / 4` is one 24-bit number, first byte
most significant, extended with zero bits; character `j` is its 6-bit index number `j mod 4`, most significant first, and
is the pad `=` (61) where the index lies wholly beyond the bytes. -/
def base64CharAt (x : Nat → Nat) (n j : Nat) : Nat :=
  let k := j / 4
  let v := x (3 * k) * 65536 + x (3 * k + 1) * 256 + x (3 * k + 2)
  if 8 * (n - 3 * k) ≤ 6 * (j % 4) then 61 else alphabetAt (v / 64 ^ (3 - j % 4) % 64)

/-- The symbol indices of a text, "leaving out" every character that is not one of the 64 (R112). -/
def base64Symbols (text : List Nat) : List Nat := text.filterMap fun c => base64Alphabet.idxOf? c

/-- Byte `j` of the bytes that the symbol indices `y` carry (R112): group `j / 3` is one 24-bit number of four indices. -/
def base64ByteAt (y : List Nat) (j : Nat) : Nat :=
  let k := j / 3
  let v := y.getD (4 * k) 0 * 64 ^ 3 + y.getD (4 * k + 1) 0 * 64 ^ 2 + y.getD (4 * k + 2) 0 * 64 + y.getD (4 * k + 3) 0
  v / 256 ^ (2 - j % 3) % 256

/-- The number that a list of quanta carries, five bits each, least significant first (R114). -/
def quantaValue : List Nat → Nat
  | [] => 0
  | q :: t => q % 32 + 32 * quantaValue t

/-- The quanta of one integer: every one but the last has the continuation flag 32 set (R114). -/
def isQuantaString : List Nat → Bool
  | [] => false
  | [q] => decide (q < 32)
  | q :: t => decide (32 ≤ q ∧ q < 64) && isQuantaString t

/-- How many five-bit quanta a folded number of at most 65 bits takes: one, and one more for each of 32, 32^2, .. that it
reaches (R114: "cut into 5-bit groups"). -/
def quantaCount (u : Nat) : Nat := 1 + ((List.range 12).filter fun j => decide (32 ^ (j + 1) ≤ u)).length

/-- Quanta that are all still open: each has the continuation flag set (R114). -/
def allOpen (qs : List Nat) : Bool := qs.all fun q => decide (32 ≤ q ∧ q < 64)

/-- The folded number of an integer: sign in bit 0, magnitude above it (R114). -/
def foldedNumber (v : Int) : Nat := 2 * v.natAbs + (if v < 0 then 1 else 0)

/-- The VLQ text of one integer as character codes: group `j` of the folded number, least significant group first, with
the continuation flag 32 on every group but the last (R114, R116). -/
def vlqText (v : Int) : List Nat :=
  let u := foldedNumber v
  (List.range (quantaCount u)).map fun j =>
    alphabetAt (u / 32 ^ j % 32 + (if j + 1 < quantaCount u then 32 else 0))

/-- The VLQ text of a whole sequence of lanes, each read as a signed 64-bit integer (R115). -/
def vlqTextOf (lanes : List Lane) : List Nat := lanes.flatMap fun v => vlqText v.toInt

/-- The integer that a folded number stands for (R117). -/
def unfoldedNumber (u : Nat) : Int := if u % 2 = 1 then -((u / 2 : Nat) : Int) else ((u / 2 : Nat) : Int)

/-- A folded number whose integer is a signed 64-bit value (R115, R117). -/
def foldedFits (u : Nat) : Bool := decide (u / 2 < 2 ^ 63) || (decide (u / 2 = 2 ^ 63) && decide (u % 2 = 1))

/-! ### Integers and floats (42_intconv.md, 43_floatconv.md) -/

/-- The unsigned value of the group of `w` bytes that starts at `x p` (R131): the sum of the bytes, each at its place. -/
def groupValue (w : Nat) (le : Bool) (x : Nat → Nat) (p : Nat) : Nat :=
  ((List.range w).map fun j => x (p + j) * 256 ^ (if le then j else w - 1 - j)).sum

/-- `sext_64` of a value of `8 * w` bits, or the value itself for an unsigned op (R16, R131). -/
def extendedValue (w : Nat) (signed : Bool) (v : Nat) : Nat :=
  if signed = true ∧ 2 ^ (8 * w - 1) ≤ v then v + 2 ^ 64 - 2 ^ (8 * w) else v

/-- Byte `m` of the bytes of the values `x 0, x 1, ..`, `w` bytes each in the byte order `le` (R132). -/
def valueByteAt (w : Nat) (le : Bool) (x : Nat → Nat) (m : Nat) : Nat :=
  x (m / w) / 256 ^ (if le then m % w else w - 1 - m % w) % 256

/-- The eight bytes-to-integers ops with their width in bytes and signedness (R74, R75). -/
def bytesToIntOps (le : Bool) : List (Instr × Nat × Bool) :=
  [(.b2u8 le, 1, false), (.b2i8 le, 1, true), (.b2u16 le, 2, false), (.b2i16 le, 2, true),
    (.b2u32 le, 4, false), (.b2i32 le, 4, true), (.b2u64 le, 8, false), (.b2i64 le, 8, true)]

/-- The eight integers-to-bytes ops with their width in bytes (R74, R75). -/
def intToBytesOps (le : Bool) : List (Instr × Nat) :=
  [(.u8tob le, 1), (.i8tob le, 1), (.u16tob le, 2), (.i16tob le, 2),
    (.u32tob le, 4), (.i32tob le, 4), (.u64tob le, 8), (.i64tob le, 8)]

/-- The magnitude of a binary32 pattern below the NaNs, in units of 2^-1074 (R161: a subnormal is `m * 2^-149`, a normal
`(2^23 + m) * 2^(e - 150)`). At 0x7F800000 the same formula gives 2^128, the threshold of R166. -/
def magnitude32 (q : Nat) : Nat :=
  let e := q / 2 ^ 23 % 256
  let m := q % 2 ^ 23
  (if e = 0 then m else (2 ^ 23 + m) * 2 ^ (e - 1)) * 2 ^ 925

/-- The magnitude of a finite binary64 pattern, in units of 2^-1074 (R161). -/
def magnitude64 (p : Nat) : Nat :=
  let e := p / 2 ^ 52 % 2048
  let m := p % 2 ^ 52
  if e = 0 then m else (2 ^ 52 + m) * 2 ^ (e - 1)

/-- The class NaN of R161, on patterns as numbers. -/
def nan32 (q : Nat) : Bool := decide (0x7F800000 < q % 2 ^ 31)
def nan64 (p : Nat) : Bool := decide (0x7FF0000000000000 < p % 2 ^ 63)

/-- `l` is the binary64 pattern of the value of the binary32 pattern `q` (R162, R163): the canonical NaN for a NaN, the
infinity of the same sign for an infinity, and else the pattern with the same sign and the same magnitude. -/
def WidensTo (q l : Nat) : Prop :=
  if nan32 q then l = 0x7FF8000000000000
  else l / 2 ^ 63 = q / 2 ^ 31 ∧
    (if q % 2 ^ 31 = 0x7F800000 then l % 2 ^ 63 = 0x7FF0000000000000
     else l % 2 ^ 63 < 0x7FF0000000000000 ∧ magnitude64 l = magnitude32 q)

/-- The distance of two numbers. -/
def distance (a b : Nat) : Nat := (a - b) + (b - a)

/-- `q` is the binary32 pattern nearest in value to the binary64 pattern `p`, ties to the even mantissa, a magnitude that
rounds to 2^128 or more being infinity (R162, R166). -/
def RoundsTo (p q : Nat) : Prop :=
  if nan64 p then q = 0x7FC00000
  else q / 2 ^ 31 = p / 2 ^ 63 ∧ q % 2 ^ 31 ≤ 0x7F800000 ∧
    (if p % 2 ^ 63 = 0x7FF0000000000000 then q % 2 ^ 31 = 0x7F800000
     else ∀ g, g ≤ 0x7F800000 →
      distance (magnitude32 (q % 2 ^ 31)) (magnitude64 p) ≤ distance (magnitude32 g) (magnitude64 p) ∧
      (distance (magnitude32 (q % 2 ^ 31)) (magnitude64 p) = distance (magnitude32 g) (magnitude64 p) →
        g ≠ q % 2 ^ 31 → q % 2 = 0))

/-- A binary64 pattern as the 64-bit float ops deliver it: every NaN is the canonical one (R162). -/
def canonicalPattern (p : Nat) : Nat := if nan64 p then 0x7FF8000000000000 else p

/-! ### SHA-1 (44_sha1.md) -/

/-- Byte `j` of the padded message of the bytes `x 0 .. x (n-1)` (R182): the message, 0x80, zero bytes, and in the last
eight bytes the length in bits, most significant first. -/
def paddedByteAt (x : Nat → Nat) (n j : Nat) : Nat :=
  let total := 64 * ((n + 8) / 64 + 1)
  if j < n then x j
  else if j = n then 0x80
  else if j < total - 8 then 0
  else 8 * n / 256 ^ (total - 1 - j) % 256

/-- `rotl32` (R16). -/
def rotated (x : Word32) (n : Nat) : Word32 := x <<< n ||| x >>> (32 - n)

/-- `w[0..79]` is the schedule of the block whose bytes are `x 0 .. x 63` (R184). -/
def IsSchedule (x : Nat → Nat) (w : Nat → Word32) : Prop :=
  (∀ t, t < 16 → w t = BitVec.ofNat 32 (groupValue 4 false x (4 * t))) ∧
  (∀ t, 16 ≤ t → t < 80 → w t = rotated (w (t - 3) ^^^ w (t - 8) ^^^ w (t - 14) ^^^ w (t - 16)) 1)

/-- The nonlinear function and the constant of round `t` (R185). -/
def roundFunction (t : Nat) (b c d : Word32) : Word32 × Word32 :=
  if t < 20 then ((b &&& c) ||| (~~~b &&& d), 0x5A827999)
  else if t < 40 then (b ^^^ c ^^^ d, 0x6ED9EBA1)
  else if t < 60 then ((b &&& c) ||| (b &&& d) ||| (c &&& d), 0x8F1BBCDC)
  else (b ^^^ c ^^^ d, 0xCA62C1D6)

/-- `v 0 .. v 80` are the working variables before each of the 80 rounds and after the last (R185). -/
def AreRounds (w : Nat → Word32) (v : Nat → Sha1Words) : Prop :=
  ∀ t, t < 80 →
    (v (t + 1)).a = rotated (v t).a 5 + (roundFunction t (v t).b (v t).c (v t).d).1 + (v t).e
      + (roundFunction t (v t).b (v t).c (v t).d).2 + w t ∧
    (v (t + 1)).b = (v t).a ∧ (v (t + 1)).c = rotated (v t).b 30 ∧
    (v (t + 1)).d = (v t).c ∧ (v (t + 1)).e = (v t).d

/-- `h'` are the accumulators after the block with the bytes `x 0 .. x 63`, from the accumulators `h` (R184, R185). -/
def BlockTakes (x : Nat → Nat) (h h' : Sha1Words) : Prop :=
  ∃ (w : Nat → Word32) (v : Nat → Sha1Words), IsSchedule x w ∧ AreRounds w v ∧ v 0 = h ∧
    h' = ⟨h.a + (v 80).a, h.b + (v 80).b, h.c + (v 80).c, h.d + (v 80).d, h.e + (v 80).e⟩

/-- The five accumulators by number (R186). -/
def Sha1Words.word (h : Sha1Words) (k : Nat) : Word32 :=
  [h.a, h.b, h.c, h.d, h.e].getD k 0

/-- Character `j` of the digest text: hexadecimal digit `j mod 8` of accumulator `j / 8`, lower case (R186). -/
def digestCharAt (h : Sha1Words) (j : Nat) : Nat :=
  let d := (h.word (j / 8)).toNat / 16 ^ (7 - j % 8) % 16
  if d < 10 then 48 + d else 87 + d

/-! ### Transcoders (45_utf8.md, 46_utf16_utf32.md) -/

/-- A codepoint that is no surrogate half (R19). -/
def isScalar (cp : Nat) : Bool := decide (cp ≤ 0x10FFFF) && !(decide (0xD800 ≤ cp) && decide (cp ≤ 0xDFFF))

/-- A value a transcoder may carry: a scalar, or with ALLOW_SURR a surrogate half (R201). -/
def isCarried (surr : Bool) (cp : Nat) : Bool := isScalar cp || (surr && decide (0xD800 ≤ cp) && decide (cp ≤ 0xDFFF))

/-- The UTF-8 size that the table of R202 gives a codepoint, the smallest that holds it. -/
def utf8Size (cp : Nat) : Nat := if cp < 0x80 then 1 else if cp < 0x800 then 2 else if cp < 0x10000 then 3 else 4

/-- The sequence of `size` bytes whose x bits are the codepoint (R202); overlong when `size` is above `utf8Size cp`. -/
def utf8Sized (size cp : Nat) : List Nat :=
  if size = 1 then [cp]
  else if size = 2 then [0xC0 + cp / 64, 0x80 + cp % 64]
  else if size = 3 then [0xE0 + cp / 4096, 0x80 + cp / 64 % 64, 0x80 + cp % 64]
  else [0xF0 + cp / 262144, 0x80 + cp / 4096 % 64, 0x80 + cp / 64 % 64, 0x80 + cp % 64]

/-- The UTF-8 form of a codepoint, by the table of R202. -/
def utf8Form (cp : Nat) : List Nat := utf8Sized (utf8Size cp) cp

/-- A 16-bit unit as two bytes (R221). -/
def unit16Form (le : Bool) (u : Nat) : List Nat := if le then [u % 256, u / 256] else [u / 256, u % 256]

/-- The UTF-16 form of a codepoint: one unit, or a high and a low surrogate (R221). -/
def utf16Form (le : Bool) (cp : Nat) : List Nat :=
  if cp < 0x10000 then unit16Form le cp
  else unit16Form le (0xD800 + (cp - 0x10000) / 1024) ++ unit16Form le (0xDC00 + (cp - 0x10000) % 1024)

/-- A 32-bit unit as four bytes, and so the UTF-32 form of a codepoint (R221). -/
def utf32Form (le : Bool) (u : Nat) : List Nat :=
  if le then [u % 256, u / 256 % 256, u / 65536 % 256, u / 16777216]
  else [u / 16777216, u / 65536 % 256, u / 256 % 256, u % 256]

/-- The bytes of a list of codepoints in a form. -/
def encodedText (form : Nat → List Nat) (cps : List Nat) : List Nat := cps.flatMap form

/-- `text` is well-formed UTF-8 for the codepoints `cps` under two allow flags: a sequence for each, of its minimal size,
or with ALLOW_OVERLONG of any size up to 4 that holds it, and surrogate halves only with ALLOW_SURR (R201 (f), R209). -/
def Utf8Text (overlong surr : Bool) (cps text : List Nat) : Prop :=
  ∃ sizes : List Nat, sizes.length = cps.length ∧ cps.all (isCarried surr) = true ∧
    (∀ q ∈ sizes.zip cps, utf8Size q.2 ≤ q.1 ∧ q.1 ≤ 4 ∧ (overlong = false → q.1 = utf8Size q.2)) ∧
    text = (sizes.zip cps).flatMap fun q => utf8Sized q.1 q.2

/-- No high surrogate half stands directly before a low one: such two units are always joined (R223, R224). -/
def halvesApart : List Nat → Bool
  | u :: v :: t =>
    !(decide (0xD800 ≤ u ∧ u ≤ 0xDBFF) && decide (0xDC00 ≤ v ∧ v ≤ 0xDFFF)) && halvesApart (v :: t)
  | _ => true

/-- `text` is well-formed UTF-16 for the codepoints `cps`: with ALLOW_SURR surrogate halves too, each unpaired, as units of
their own (R223, R227). -/
def Utf16Text (surr le : Bool) (cps text : List Nat) : Prop :=
  cps.all (isCarried surr) = true ∧ halvesApart cps = true ∧ text = encodedText (utf16Form le) cps

/-- `text` is well-formed UTF-32 for the codepoints `cps` (R225). -/
def Utf32Text (surr le : Bool) (cps text : List Nat) : Prop :=
  cps.all (isCarried surr) = true ∧ text = encodedText (utf32Form le) cps

/-- How the byte-order mark is read (R204, R222). An input is `mark` and then `body`, the order of whose bytes is `le`, and
a command has the LE flag `flag`. Either a mark stands first in that order, BOM = 1 takes it off, and LE does not matter;
or nothing is taken off, because BOM = 0 or because the input begins with a mark in neither order, and LE decides. -/
def MarkRead (form : Bool → Nat → List Nat) (le flag bom : Bool) (mark body : List Nat) : Prop :=
  (bom = true ∧ mark = form le 0xFEFF) ∨
  (mark = [] ∧ flag = le ∧ (bom = true → ∀ order, ¬ form order 0xFEFF <+: body))

/-- What a bytes-to-codepoints op does with well-formed text: it gives the text's codepoints, in lenient and in strict mode,
with every setting of BOM and LE that reads the text in its own byte order. `op` is the op by LE, STRICT and BOM, `form`
its form by byte order, `text` its well-formed texts by byte order. -/
def WellFormedTextRule (op : Bool → Bool → Bool → Instr) (form : Bool → Nat → List Nat)
    (text : Bool → List Nat → List Nat → Prop) : Prop :=
  ∀ (le flag strict bom : Bool) (s : State) (mark body cps : List Nat),
    s.roomFor cps.length → text le cps body → MarkRead form le flag bom mark body → s.byteValues = mark ++ body →
    exec (op flag strict bom) s = .next (s.completed (cps.map (BitVec.ofNat 64)) 0 0 0 0 0)

/-- The codepoints-to-bytes ops under given flags, with the form they write; the UTF-8 op has no byte order (R55). -/
def codepointToByteOps (le strict surr bom : Bool) : List (Instr × (Nat → List Nat)) :=
  [(.utf8C2b strict surr bom, utf8Form), (.utf16C2b le strict surr bom, utf16Form le),
    (.utf32C2b le strict surr bom, utf32Form le)]

/-- The bytes-to-codepoints ops in lenient mode. `overlong` concerns the UTF-8 op only, `le` the two others. -/
def lenientDecodeOps (le overlong surr bom : Bool) : List Instr :=
  [.utf8B2c false overlong surr bom, .utf16B2c le false surr bom, .utf32B2c le false surr bom]

/-- What a codepoints-to-bytes op writes for a lane: a surrogate half that is not allowed becomes U+FFFD (R206). -/
def writtenCodepoint (surr : Bool) (cp : Nat) : Nat := if isCarried surr cp then cp else 0xFFFD

/-- The number a lead byte and its continuation bytes carry: the low bits of each, most significant first (R202). -/
def continuationValue (lead : Nat) (conts : List Nat) : Nat := conts.foldl (fun acc c => 64 * acc + c % 64) lead

/-- A continuation byte as a number (R202). -/
def isContinuationValue (c : Nat) : Bool := decide (0x80 ≤ c) && decide (c ≤ 0xBF)

/-- The malformed units of UTF-8: the six rows of R205. `MalformedUtf8 overlong surr unit rest` says that `unit`, followed
by the bytes `rest`, is one malformed unit. -/
inductive MalformedUtf8 (overlong surr : Bool) : List Nat → List Nat → Prop where
  /-- A stray continuation byte. -/
  | stray (b : Nat) (rest : List Nat) (h : 0x80 ≤ b ∧ b ≤ 0xBF) : MalformedUtf8 overlong surr [b] rest
  /-- A byte that is never valid. -/
  | invalid (b : Nat) (rest : List Nat) (h : 0xF8 ≤ b ∧ b ≤ 0xFF) : MalformedUtf8 overlong surr [b] rest
  /-- A lead byte with too few continuation bytes after it; the byte that stopped it, if any, is not part of the unit. -/
  | truncated (b size : Nat) (conts rest : List Nat)
      (lead : (0xC0 ≤ b ∧ b ≤ 0xDF ∧ size = 2) ∨ (0xE0 ≤ b ∧ b ≤ 0xEF ∧ size = 3) ∨ (0xF0 ≤ b ∧ b ≤ 0xF7 ∧ size = 4))
      (tail : conts.all isContinuationValue = true) (short : conts.length + 1 < size)
      (stop : rest.head?.any isContinuationValue = false) :
      MalformedUtf8 overlong surr (b :: conts) rest
  /-- A complete sequence that is overlong (and ALLOW_OVERLONG = 0), a surrogate half (and ALLOW_SURR = 0), or above
  0x10FFFF. -/
  | rejected (b size low least : Nat) (conts rest : List Nat)
      (lead : (0xC0 ≤ b ∧ b ≤ 0xDF ∧ size = 2 ∧ low = b - 0xC0 ∧ least = 0x80) ∨
        (0xE0 ≤ b ∧ b ≤ 0xEF ∧ size = 3 ∧ low = b - 0xE0 ∧ least = 0x800) ∨
        (0xF0 ≤ b ∧ b ≤ 0xF7 ∧ size = 4 ∧ low = b - 0xF0 ∧ least = 0x10000))
      (tail : conts.all isContinuationValue = true) (full : conts.length + 1 = size)
      (bad : (continuationValue low conts < least ∧ overlong = false) ∨
        (0xD800 ≤ continuationValue low conts ∧ continuationValue low conts ≤ 0xDFFF ∧ surr = false) ∨
        0x10FFFF < continuationValue low conts) :
      MalformedUtf8 overlong surr (b :: conts) rest

/-- Whether bytes begin with the unit of a low surrogate half. -/
def startsLow (le : Bool) : List Nat → Bool
  | b0 :: b1 :: _ =>
    let u := if le then b1 * 256 + b0 else b0 * 256 + b1
    decide (0xDC00 ≤ u) && decide (u ≤ 0xDFFF)
  | _ => false

/-- The malformed units of UTF-16: the three UTF16_B2C rows of R227. -/
inductive MalformedUtf16 (le surr : Bool) : List Nat → List Nat → Prop where
  /-- A high surrogate half that no low one follows. -/
  | high (u : Nat) (rest : List Nat) (h : 0xD800 ≤ u ∧ u ≤ 0xDBFF) (alone : startsLow le rest = false)
      (off : surr = false) : MalformedUtf16 le surr (unit16Form le u) rest
  /-- A low surrogate half where a unit begins. -/
  | low (u : Nat) (rest : List Nat) (h : 0xDC00 ≤ u ∧ u ≤ 0xDFFF) (off : surr = false) :
      MalformedUtf16 le surr (unit16Form le u) rest
  /-- One byte left after the last whole unit. -/
  | leftover (b : Nat) (h : b < 256) : MalformedUtf16 le surr [b] []

/-- The malformed units of UTF-32: the three UTF32_B2C rows of R227. -/
inductive MalformedUtf32 (le surr : Bool) : List Nat → List Nat → Prop where
  /-- A unit above 0x10FFFF. -/
  | above (u : Nat) (rest : List Nat) (h : 0x10FFFF < u ∧ u < 2 ^ 32) : MalformedUtf32 le surr (utf32Form le u) rest
  /-- A surrogate half. -/
  | half (u : Nat) (rest : List Nat) (h : 0xD800 ≤ u ∧ u ≤ 0xDFFF) (off : surr = false) :
      MalformedUtf32 le surr (utf32Form le u) rest
  /-- One to three bytes left after the last whole unit. -/
  | leftover (unit : List Nat) (h : 1 ≤ unit.length ∧ unit.length ≤ 3) : MalformedUtf32 le surr unit []

/-- What a bytes-to-codepoints op does with its first malformed unit (R201 (c) and (d)): a mark may stand first, and then
well-formed text of `cps`. In strict mode the command fails at the unit's first byte, its index counted from the start of
the input with the mark included. In lenient mode the unit gives one U+FFFD, and the bytes after it are decoded as they
are, alone and in the same byte order, with BOM = 0 (in the state `u`). -/
def MalformedUnitRule (op : Bool → Bool → Bool → Instr) (form : Bool → Nat → List Nat)
    (text : Bool → List Nat → List Nat → Prop) (malformed : Bool → List Nat → List Nat → Prop) : Prop :=
  ∀ (le flag bom : Bool) (s : State) (mark body cps unit rest : List Nat),
    s.ready → text le cps body → malformed le unit rest → MarkRead form le flag bom mark (body ++ unit ++ rest) →
    s.byteValues = mark ++ body ++ unit ++ rest →
    exec (op flag true bom) s = .next (s.failed 0x13 (BitVec.ofNat 64 (mark.length + body.length))
      (BitVec.ofNat 64 (unit.headD 0))) ∧
    ∀ (u : State) (out : List Lane), u.byteValues = rest →
      exec (op le false false) u = .next (u.completed out 0 0 0 0 0) → cps.length + 1 + out.length ≤ s.ocap.toNat →
      exec (op flag false bom) s = .next (s.completed (cps.map (BitVec.ofNat 64) ++ [0xFFFD] ++ out) 0 0 0 0 0)

/-! ### PNG and WebSocket (47_png.md, 48_websocket.md) -/

/-- Byte `j` of the 68 raw bytes (R253, R256): each row is the filter byte 0 and four times R, G, B, A. -/
def rawByteAt (arg0 j : Nat) : Nat := if j % 17 = 0 then 0 else arg0 / 256 ^ (3 - (j % 17 - 1) % 4) % 256

/-- The four bytes of a 32-bit number, most significant first (R250). -/
def bigEndian32 (v : Nat) : List Nat := [v / 16777216 % 256, v / 65536 % 256, v / 256 % 256, v % 256]

/-- A list of numbers as bytes. -/
def asBytes (xs : List Nat) : List Byte := xs.map (BitVec.ofNat 8)

/-- A list of byte values as output lanes (R27). -/
def asLanes (xs : List Nat) : List Lane := xs.map (BitVec.ofNat 64)

/-- The header of the frame that WSENC builds (R261 to R263): byte 0, the mask bit and the minimal length form, and the
key when one is supplied. -/
def frameHeader (hasmask : Bool) (arg0 arg1 n : Nat) : List Nat :=
  let m := if hasmask then 128 else 0
  [arg0 % 2 * 128 + arg0 / 2 % 2 * 64 + arg0 / 4 % 2 * 32 + arg0 / 8 % 2 * 16 + arg0 / 16 % 16]
    ++ (if n ≤ 125 then [m + n]
        else if n ≤ 65535 then [m + 126, n / 256, n % 256]
        else (m + 127) :: (List.range 8).map fun j => n / 256 ^ (7 - j) % 256)
    ++ (if hasmask then bigEndian32 arg1 else [])

/-- Payload byte `i` under a 32-bit key: the exclusive-or with `mask[i mod 4]` (R261). -/
def maskedByte (key i b : Nat) : Nat := b ^^^ (key / 256 ^ (3 - i % 4) % 256)

/-- What WSDEC reads in a frame's header (R261, R264): the mask bit, the length of the extended length, the header
length, the declared payload length and the key. `x` is the input by position. -/
structure FrameFields where
  masked : Nat
  extension : Nat
  header : Nat
  declared : Nat
  key : Nat
deriving DecidableEq, Repr

/-- The fields of the frame whose bytes are `x 0, x 1, ..` (R264). -/
def frameFields (x : Nat → Nat) : FrameFields :=
  let m := x 1 / 128
  let len7 := x 1 % 128
  let e := if len7 = 126 then 2 else if len7 = 127 then 8 else 0
  { masked := m
    extension := e
    header := 2 + e + 4 * m
    declared := if e = 0 then len7 else groupValue e false x 2
    key := if m = 1 then groupValue 4 false x (2 + e) else 0 }

/-- OPCLASS: "0 continue, 1 text, 2 binary, 3 close, 4 ping, 5 pong, 6 reserved" for the opcodes 0, 1, 2, 8, 9, 10 and
every other (R262). -/
def opcodeClass (opcode : Nat) : Nat := [0, 1, 2, 6, 6, 6, 6, 6, 3, 4, 5, 6, 6, 6, 6, 6].getD opcode 6

/-- RES0 of WSDEC: the table of R262. -/
def frameWord (byte0 masked : Nat) : Nat :=
  byte0 / 128 % 2 + byte0 / 64 % 2 * 2 + byte0 / 32 % 2 * 4 + byte0 / 16 % 2 * 8 + byte0 % 16 * 16
    + masked * 256 + opcodeClass (byte0 % 16) * 512

end Sys2Proof.Machine
end

