-- ==== Sys2Proof/Certificates/Slice0/Obligations.lean ====
section
/-! DEFINITION. The statements for the provers. Each docstring cites the rules of spec/ it formalises; a clause that is
the model's own choice says so and names its log entry. -/

open Sys2Proof Sys2Proof.Machine

/-! ### Decoding and the step -/

/-- Decode and encode agree (R71, R73, R75): every instruction, with every flag it accepts at both values, is read back
from its command word. -/
def Obligations.EveryInstructionDecodesFromItsEncoding : Prop :=
  ∀ i : Instr, decode (encode i) = .ok i

/-- The other direction: each command word that the decoder accepts is the encoding of what it gives, so no two words
mean one instruction and no bit of a word is dropped. -/
def Obligations.DecodedWordsAreEncodings : Prop :=
  ∀ (c : Lane) (i : Instr), decode c = .ok i → c = encode i

/-- R76 in both of its forms, the three checks and the match and mask: the decoder accepts exactly the legal command
words. -/
def Obligations.DecoderAcceptsExactlyTheLegalWords : Prop :=
  ∀ c : Lane,
    (legalWord c = true ↔ ∃ i, decode c = .ok i) ∧
    (legalWord c = true ↔ ∃ r, r ∈ opRows ∧ c &&& ~~~r.accepted = r.op)

/-- Words written out from R71, R73 and R75 decode to the instructions they stand for, among them R80's example
`UTF8_B2C.STRICT.BOM` = 0x1260. -/
def Obligations.WrittenOutWordsDecode : Prop :=
  decode 0x11 = .ok .crc32 ∧ decode 0x23 = .ok .vlqdec ∧ decode 0x134 = .ok (.b2u32 true) ∧
  decode 0x148 = .ok (.f32tob true) ∧ decode 0x50 = .ok .sha1 ∧
  decode 0x1260 = .ok (.utf8B2c true false false true) ∧
  decode 0x1163 = .ok (.utf16C2b true false false true) ∧ decode 0x70 = .ok .pngrgba ∧
  decode 0x6080 = .ok (.wsenc true true) ∧ decode 0x2081 = .ok (.wsdec true)

/-- A step runs the decoded instruction: when the next event is a CMD write of a word that decodes to `i`, the step is
`exec i` with CMD holding the word and the event taken off the script (R31 steps 1 and 5). `withCommand` places such an
event (log 3). -/
def Obligations.StepRunsTheDecodedInstruction : Prop :=
  ∀ (s : State) (c : Lane) (i : Instr) (rest : List Event), decode c = .ok i →
    (s.script = .access (.writeReg 0 c) :: rest → step s = exec i { s with cmd := c, script := rest }) ∧
    step (s.withCommand c) = exec i { s with cmd := c }

/-- R305 and R77: a value that is not a legal command word ends with E_ILLEGAL, whatever ILEN is, with ERRPOS 0 and
ERRINFO the value written, and runs no op. Such are 0, every value with one of the reserved OP values that R77 lists, with a
reserved bit set, or with a flag set that its op does not accept. -/
def Obligations.IllegalWordsEndWithEIllegal : Prop :=
  (∀ (s : State) (c : Lane), legalWord c = false →
    hostAccess (.writeReg 0 c) s = .next ({ s with cmd := c }.failed 0x43 0 c)) ∧
  legalWord 0 = false ∧
  ∀ c : Lane,
    (c.toNat % 256 < 0x10 ∨ (0x12 ≤ c.toNat % 256 ∧ c.toNat % 256 ≤ 0x1F) ∨
      (0x24 ≤ c.toNat % 256 ∧ c.toNat % 256 ≤ 0x2F) ∨ (0x42 ≤ c.toNat % 256 ∧ c.toNat % 256 ≤ 0x47) ∨
      (0x4A ≤ c.toNat % 256 ∧ c.toNat % 256 ≤ 0x4F) ∨ (0x51 ≤ c.toNat % 256 ∧ c.toNat % 256 ≤ 0x5F) ∨
      (0x66 ≤ c.toNat % 256 ∧ c.toNat % 256 ≤ 0x6F) ∨ (0x71 ≤ c.toNat % 256 ∧ c.toNat % 256 ≤ 0x7F) ∨
      0x82 ≤ c.toNat % 256 ∨ 2 ^ 15 ≤ c.toNat ∨
      ∃ r ∈ opRows, c &&& 0xFF = r.op ∧ c &&& 0x7F00 &&& ~~~r.accepted ≠ 0) →
    legalWord c = false

/-- One step takes the next event of the one order of accesses, and with no event left the context "holds its state and
does nothing" (R61, R326, R352). The script itself is the model's (log 3), and so is the reset event (log 16). -/
def Obligations.StepPerformsTheNextEvent : Prop :=
  ∀ (s : State) (a : HostAccess) (rest : List Event),
    (s.script = [] → step s = .next s) ∧
    (s.script = .access a :: rest → step s = hostAccess a { s with script := rest }) ∧
    (s.script = .reset :: rest →
      step s = .next { State.resetWith s.icap s.ocap with script := rest, replies := s.replies })

/-! ### What the command step does around every op -/

/-- The input side of E_CAPACITY, for every instruction, PNGRGBA too (R31 step 4, R306): with ILEN above IBUF_CAP no op
runs, whatever error it would have had (R310). -/
def Obligations.InputAboveCapacityFails : Prop :=
  ∀ (i : Instr) (s : State), s.icap.toNat < s.ilen.toNat → exec i s = .next (s.failed 0x53 s.icap 0)

/-- The output side of E_CAPACITY and its place in the order (R31 steps 6 to 8, R306, R310): a smaller OBUF_CAP changes
nothing for an output that still fits and nothing for an error of the op's own, and turns an output that does not fit into
E_CAPACITY with all of it dropped, RES0 to RES4 too. -/
def Obligations.OutputCapacityDecidesOnlyDelivery : Prop :=
  ∀ (i : Instr) (s t : State) (wider : Lane), s.ready → s.ocap.toNat ≤ wider.toNat →
    exec i { s with ocap := wider } = .next t →
    (t.status = 0x01 → t.olen.toNat ≤ s.ocap.toNat → exec i s = .next { t with ocap := s.ocap }) ∧
    (t.status = 0x01 → s.ocap.toNat < t.olen.toNat → exec i s = .next (s.failed 0x53 s.ocap 1)) ∧
    (t.status = 0x13 ∨ t.status = 0x23 ∨ t.status = 0x33 → exec i s = .next { t with ocap := s.ocap })

/-- R289 and R303: every command of every instruction, in every state, completes; it leaves either its results or one of
the error reports, and everything that is no output is as before. -/
def Obligations.EveryCommandCompletesOrReportsAnError : Prop :=
  ∀ (i : Instr) (s : State),
    (∃ (out : List Lane) (r0 r1 r2 r3 r4 : Lane), out.length ≤ s.ocap.toNat ∧
      exec i s = .next (s.completed out r0 r1 r2 r3 r4)) ∨
    (∃ st pos info : Lane, st ∈ [(0x13 : Lane), 0x23, 0x33, 0x53] ∧ exec i s = .next (s.failed st pos info))

/-- R32: no command writes IBUF, ILEN, ARG0, ARG1, ICAP or OCAP, and no host access other than a CMD write writes what
the block produced. -/
def Obligations.CommandsAndAccessesWriteOnlyTheirOwn : Prop :=
  (∀ (c : Lane) (s t : State), commandWrite c s = .next t →
    t.ibuf = s.ibuf ∧ t.ilen = s.ilen ∧ t.arg0 = s.arg0 ∧ t.arg1 = s.arg1 ∧ t.icap = s.icap ∧ t.ocap = s.ocap) ∧
  (∀ (a : HostAccess) (s t : State), a.writesCmd = false → hostAccess a s = .next t →
    t.status = s.status ∧ t.errpos = s.errpos ∧ t.errinfo = s.errinfo ∧ t.olen = s.olen ∧
    t.res0 = s.res0 ∧ t.res1 = s.res1 ∧ t.res2 = s.res2 ∧ t.res3 = s.res3 ∧ t.res4 = s.res4 ∧ t.obuf = s.obuf)

/-- R10: what a command produces is a function of the command word, ILEN, the lanes below it, ARG0, ARG1 and the two
capacities. Two contexts that agree on those end with the same outputs, whatever else differs: the lanes at and above
ILEN, an earlier error, OBUF, the RES registers, STATUS (R307, R343). -/
def Obligations.CommandsArePure : Prop :=
  ∀ (c : Lane) (s u t v : State),
    s.ilen = u.ilen → s.arg0 = u.arg0 → s.arg1 = u.arg1 → s.icap = u.icap → s.ocap = u.ocap →
    (∀ k, k < s.ilen.toNat → s.ibuf.read k = u.ibuf.read k) →
    commandWrite c s = .next t → commandWrite c u = .next v →
    t.status = v.status ∧ t.errpos = v.errpos ∧ t.errinfo = v.errinfo ∧ t.olen = v.olen ∧ t.obuf = v.obuf ∧
    t.res0 = v.res0 ∧ t.res1 = v.res1 ∧ t.res2 = v.res2 ∧ t.res3 = v.res3 ∧ t.res4 = v.res4 ∧ t.cmd = v.cmd

/-- The table of R22: which instructions read ARG0 and ARG1 and which write the RES registers. WSENC without HASMASK
ignores ARG1 (R263). -/
def Obligations.OnlyTheListedOpsUseScalars : Prop :=
  ∀ (i : Instr) (s t u : State) (x y : Lane), exec i s = .next t →
    exec i { s with arg0 := if i = .pngrgba ∨ (∃ n h, i = .wsenc n h) then s.arg0 else x
                    arg1 := if ∃ n, i = .wsenc n true then s.arg1 else y } = .next u →
    u = { t with arg0 := u.arg0, arg1 := u.arg1 } ∧
    (i ∉ [.adler32, .crc32, .sha1, .wsdec false, .wsdec true] → t.res0 = 0) ∧
    (i ∉ [.sha1, .wsdec false, .wsdec true] → t.res1 = 0 ∧ t.res2 = 0 ∧ t.res3 = 0) ∧
    (i ≠ .sha1 → t.res4 = 0)

/-- R302: the instructions that never end with an error of their own. With the input check passed, only the output
capacity can stop them. -/
def Obligations.ListedOpsNeverRaise : Prop :=
  ∀ (i : Instr) (s t : State), neverRaises i = true → s.ready → exec i s = .next t →
    (t.status = 0x01 ∧ t.errpos = 0 ∧ t.errinfo = 0) ∨ t = s.failed 0x53 s.ocap 1

/-- The last column of R300: which instructions can end with which error. E_FORMAT: a strict transcoder, VLQDEC, WSDEC;
E_RANGE: a codepoints-to-bytes op, VLQDEC (WSENC's is unreachable); E_BADCHAR: VLQDEC. Every status a command leaves is
one of R303's. -/
def Obligations.ErrorsComeOnlyFromTheListedOps : Prop :=
  ∀ (i : Instr) (s t : State), exec i s = .next t →
    t.status ∈ [(0x01 : Lane), 0x13, 0x23, 0x33, 0x53] ∧
    (t.status = 0x13 → (∃ o f b, i = .utf8B2c true o f b) ∨ (∃ b, i = .utf8C2b true false b) ∨
      (∃ l f b, i = .utf16B2c l true f b) ∨ (∃ l b, i = .utf16C2b l true false b) ∨
      (∃ l f b, i = .utf32B2c l true f b) ∨ (∃ l b, i = .utf32C2b l true false b) ∨
      i = .vlqdec ∨ ∃ n, i = .wsdec n) ∧
    (t.status = 0x23 → (∃ x f b, i = .utf8C2b x f b) ∨ (∃ l x f b, i = .utf16C2b l x f b) ∨
      (∃ l x f b, i = .utf32C2b l x f b) ∨ i = .vlqdec) ∧
    (t.status = 0x33 → i = .vlqdec)

/-- R29: after every command, legal or not, DONE is 1, ERR says whether there was an error, CODE is 0 exactly when there
was none and never a reserved code, and the reserved bits are 0. -/
def Obligations.StatusFieldsAfterEveryCommand : Prop :=
  ∀ (c : Lane) (s t : State), commandWrite c s = .next t →
    t.done = true ∧ (t.err = false ↔ t.code = 0) ∧ t.code.toNat ≤ 5 ∧
    t.status.extractLsb' 2 2 = 0 ∧ t.status >>> 8 = 0 ∧ (t.err = false → t.errpos = 0 ∧ t.errinfo = 0)

/-! ### The host's accesses, the buffers and reset -/

/-- R52: the five primitives, by register and lane index, for indices below and beyond every bound. That a lane at or beyond
the capacity reads 0 and ignores a write is R52's wording against row I16 of 93_implementation_defined.md, the model's
choice between them (log 9); the value read is kept in `replies`, the model's own field (log 4). -/
def Obligations.HostPrimitives : Prop :=
  ∀ (s : State) (i : Nat) (v : Lane),
    hostAccess (.readReg i) s = .next (s.answer ([s.cmd, s.status, s.errpos, s.errinfo, s.ilen, s.olen, s.icap, s.ocap,
      s.arg0, s.arg1, s.res0, s.res1, s.res2, s.res3, s.res4].getD i 0)) ∧
    hostAccess (.writeReg 0 v) s = commandWrite v s ∧
    hostAccess (.writeReg 4 v) s = .next { s with ilen := v } ∧
    hostAccess (.writeReg 8 v) s = .next { s with arg0 := v } ∧
    hostAccess (.writeReg 9 v) s = .next { s with arg1 := v } ∧
    (i ∉ [0, 4, 8, 9] → hostAccess (.writeReg i v) s = .next s) ∧
    hostAccess (.readIbuf i) s = .next (s.answer (if i < s.icap.toNat then s.ibuf.read i else 0)) ∧
    hostAccess (.readObuf i) s = .next (s.answer (if i < s.ocap.toNat then s.obuf.read i else 0)) ∧
    (s.icap.toNat ≤ i → hostAccess (.writeIbuf i v) s = .next s) ∧
    (i < s.icap.toNat → s.ibuf.wf = true →
      ∃ m : Memory, hostAccess (.writeIbuf i v) s = .next { s with ibuf := m } ∧ m.read i = v ∧
        ∀ j, j ≠ i → m.read j = s.ibuf.read j)

/-- R25: in a context that meets the invariant, the host reads OBUF[i] as the lane for i below OLEN and as 0 from OLEN on;
the 0 at and beyond the capacity is R25's wording against row I16 of 93_implementation_defined.md (log 9). A host write to
OBUF is no primitive of R52 and is refused (R57), where R25 would ignore it (log 10). Both are the model's choice between
parts of the spec. The value read is kept in `replies`, the model's own field (log 4). -/
def Obligations.HostSeesOnlyTheOutput : Prop :=
  ∀ (s : State) (i : Nat) (v : Lane), s.Inv →
    hostAccess (.readObuf i) s = .next (s.answer (if i < s.olen.toNat then s.obuf.read i else 0)) ∧
    hostAccess (.writeObuf i v) s = .refused .notAPrimitive

/-- R59: reads have no side effects (a read only returns its value, kept in the model's own `replies`, log 4, and after any
read a read returns the same value again; that lanes at and beyond the capacity answer too is log 9), writes to ILEN, ARG0, ARG1 and IBUF are idempotent,
and a repeated CMD write recomputes the same state. -/
def Obligations.AccessesAreIdempotent : Prop :=
  (∀ (i : Nat) (s : State), (∃ v, hostAccess (.readReg i) s = .next (s.answer v)) ∧
    (∃ v, hostAccess (.readIbuf i) s = .next (s.answer v)) ∧
    (∃ v, hostAccess (.readObuf i) s = .next (s.answer v))) ∧
  (∀ (a b : HostAccess) (s t u : State), a.isRead = true → b.isRead = true →
    hostAccess a s = .next t → hostAccess b s = .next u →
    ∃ v, t = s.answer v ∧ hostAccess a u = .next (u.answer v)) ∧
  (∀ (i : Nat) (v : Lane) (s t : State), s.ibuf.wf = true →
    hostAccess (.writeIbuf i v) s = .next t → hostAccess (.writeIbuf i v) t = .next t) ∧
  (∀ (i : Nat) (v : Lane) (s t : State), hostAccess (.writeReg i v) s = .next t → hostAccess (.writeReg i v) t = .next t)

/-- R53's mapping and R57: an access of 8 bytes at base + 8 * i is the primitive on index `i`, and every other width,
an address below the base or off its 8-byte grid is refused, as R57 asks of a model (log 11); so is a write to OBUF, on
which R52 has no primitive (log 10). -/
def Obligations.BusAccessesArePrimitivesOrRefused : Prop :=
  ∀ (sp : Space) (i address width : Nat) (data : Option Lane) (s : State),
    hostAccess (.bus ⟨sp, byteAddress sp i, 8, data⟩) s = (match sp, data with
      | .registers, none => hostAccess (.readReg i) s
      | .registers, some v => hostAccess (.writeReg i v) s
      | .ibuf, none => hostAccess (.readIbuf i) s
      | .ibuf, some v => hostAccess (.writeIbuf i v) s
      | .obuf, none => hostAccess (.readObuf i) s
      | .obuf, some _ => .refused .notAPrimitive) ∧
    (width ≠ 8 ∨ address < spaceBase sp ∨ (address - spaceBase sp) % 8 ≠ 0 →
      hostAccess (.bus ⟨sp, address, width, data⟩) s = .refused .undefinedAccess)

/-- R340: the whole table of reset values, for every value of the two capacities: every register, and every lane that the
buffers have. That a lane beyond the capacity reads 0 too is the model's choice (log 9), and the reset of R341 as an event
is the model's (log 16). The capacities that `State.reset` takes are the model's choice too (log 2), and nothing
here rests on them. -/
def Obligations.ResetLeavesTheTable : Prop :=
  ∀ (icap ocap : Lane) (i : Nat) (s : State),
    (State.resetWith icap ocap).register i = (if i = 6 then icap else if i = 7 then ocap else 0) ∧
    (State.resetWith icap ocap).readIbuf i = 0 ∧ (State.resetWith icap ocap).readObuf i = 0 ∧
    (State.reset = State.resetWith State.reset.icap State.reset.ocap) ∧
    ∃ t, perform .reset s = .next t ∧ t.readIbuf i = 0 ∧ t.readObuf i = 0 ∧
      t.register i = (if i = 6 then s.icap else if i = 7 then s.ocap else 0)

/-! ### Invariants -/

/-- Every step keeps the invariant of a context (R24, R25, R29, R30, R303, R340), and no step changes a capacity
(R20, R21: "nobody"). -/
def Obligations.StepKeepsTheInvariant : Prop :=
  ∀ s t : State, s.Inv → step s = .next t → t.Inv ∧ t.icap = s.icap ∧ t.ocap = s.ocap

/-- The invariant holds right after reset, whatever the capacities are. -/
def Obligations.ResetMeetsTheInvariant : Prop :=
  ∀ icap ocap : Lane, (State.resetWith icap ocap).Inv ∧ State.reset.Inv

/-- "Contexts share nothing" (R322): a step of one context leaves every other as it is, is what that context would do
alone, and two contexts' steps, where both give a next state, give the same block in either order. -/
def Obligations.ContextsShareNothing : Prop :=
  ∀ (b b1 : Block) (j k : Nat), j ≠ k → Block.step j b = .next b1 →
    (b1.contexts[k]? = b.contexts[k]?) ∧
    (∃ s t, b.contexts[j]? = some s ∧ step s = .next t ∧ b1.contexts[j]? = some t) ∧
    ∀ b2, Block.step k b = .next b2 → ∃ b12, Block.step k b1 = .next b12 ∧ Block.step j b2 = .next b12

/-! ### Checksums -/

/-- R101 with R100: the two running sums, and RES0 from them; no output sequence. -/
def Obligations.Adler32Result : Prop :=
  ∀ s : State, s.ready → ∃ a b : Nat → Nat,
    a 0 = 1 ∧ b 0 = 0 ∧
    (∀ k, k < s.ilen.toNat → a (k + 1) = (a k + s.byteAt k) % 65521 ∧ b (k + 1) = (b k + a (k + 1)) % 65521) ∧
    exec .adler32 s = .next (s.completed []
      (BitVec.ofNat 64 (b s.ilen.toNat * 65536 + a s.ilen.toNat)) 0 0 0 0)

/-- An implementation that defers the reductions to the end is the same (R101): both sums in closed form, each byte
counted in `b` once for every byte from it on. -/
def Obligations.Adler32DeferredReductionsAgree : Prop :=
  ∀ bs : List Byte,
    (adler32 bs).toNat =
      (bs.length + ((List.range bs.length).map fun k => (bs.length - k) * (bs.getD k 0).toNat).sum) % 65521 * 65536
        + (1 + (bs.map BitVec.toNat).sum) % 65521

/-- R104 with the bit step of R103: the complemented seed, eight bit steps for each byte, the complemented result. -/
def Obligations.Crc32Result : Prop :=
  ∀ s : State, s.ready → ∃ c : Nat → Nat,
    c 0 = 0xFFFFFFFF ∧
    (∀ k, k < s.ilen.toNat → c (k + 1) = (crcShift^[8]) (c k ^^^ s.byteAt k)) ∧
    exec .crc32 s = .next (s.completed [] (BitVec.ofNat 64 (c s.ilen.toNat ^^^ 0xFFFFFFFF)) 0 0 0 0)

/-- R105: the table-accelerated form gives the same checksum for every input. -/
def Obligations.CrcTableFormAgrees : Prop :=
  ∀ bs : List Byte, crc32Table bs = crc32 bs

/-! ### Base64 and VLQ -/

/-- R111, by position: character `j` is a 6-bit index of the 24-bit group `j / 4`, or the pad. -/
def Obligations.B64encResult : Prop :=
  ∀ s : State, s.roomFor (4 * ((s.ilen.toNat + 2) / 3)) →
    exec .b64enc s = .next (s.completed
      (laneTable (4 * ((s.ilen.toNat + 2) / 3)) (base64CharAt s.byteAt s.ilen.toNat)) 0 0 0 0 0)

/-- R112, by position: the foreign characters are left out, byte `j` is cut from the 24-bit group `j / 3` of the symbols
that remain, and a dangling symbol gives no byte. -/
def Obligations.B64decResult : Prop :=
  ∀ s : State, s.roomFor ((base64Symbols s.byteValues).length * 3 / 4) →
    exec .b64dec s = .next (s.completed
      (laneTable ((base64Symbols s.byteValues).length * 3 / 4) (base64ByteAt (base64Symbols s.byteValues))) 0 0 0 0 0)

/-- R113: B64DEC of the output of B64ENC gives the bytes back, provided both fit. -/
def Obligations.Base64RoundTrip : Prop :=
  ∀ s t u : State, s.roomFor (4 * ((s.ilen.toNat + 2) / 3)) → exec .b64enc s = .next t →
    FeedsInto t u → u.roomFor s.ilen.toNat →
    exec .b64dec u = .next (u.completed (asLanes s.byteValues) 0 0 0 0 0)

/-- R116: the folded number of every lane, cut into five-bit quanta, least significant first, as many as it takes. -/
def Obligations.VlqencResult : Prop :=
  ∀ s : State, s.roomFor (vlqTextOf s.input).length →
    exec .vlqenc s = .next (s.completed (asLanes (vlqTextOf s.input)) 0 0 0 0 0)

/-- R117 on strings of whole integers whose values fit: one lane for each. -/
def Obligations.VlqdecResult : Prop :=
  ∀ (s : State) (gs : List (List Nat)), s.roomFor gs.length →
    (∀ g ∈ gs, isQuantaString g = true ∧ foldedFits (quantaValue g) = true) →
    s.byteValues = gs.flatten.map alphabetAt →
    exec .vlqdec s = .next (s.completed
      (gs.map fun g => BitVec.ofInt 64 (unfoldedNumber (quantaValue g))) 0 0 0 0 0)

/-- The three errors of R117, in input order, after any number of whole integers that fit: a bad character, which may stand
inside an open integer; an integer whose value does not fit; an end of input inside an integer. -/
def Obligations.VlqdecErrors : Prop :=
  ∀ (s : State) (gs : List (List Nat)) (g : List Nat) (c : Nat) (rest : List Nat), s.ready →
    (∀ q ∈ gs, isQuantaString q = true ∧ foldedFits (quantaValue q) = true) →
    (s.byteValues = gs.flatten.map alphabetAt ++ g.map alphabetAt ++ c :: rest → allOpen g = true →
      c ∉ base64Alphabet →
      exec .vlqdec s = .next (s.failed 0x33 (BitVec.ofNat 64 (gs.flatten.length + g.length)) (BitVec.ofNat 64 c))) ∧
    (s.byteValues = gs.flatten.map alphabetAt ++ g.map alphabetAt ++ rest → isQuantaString g = true →
      foldedFits (quantaValue g) = false →
      exec .vlqdec s = .next (s.failed 0x23 (BitVec.ofNat 64 gs.flatten.length) 0)) ∧
    (s.byteValues = gs.flatten.map alphabetAt ++ g.map alphabetAt → allOpen g = true → g ≠ [] →
      exec .vlqdec s = .next (s.failed 0x13 (BitVec.ofNat 64 gs.flatten.length) 0))

/-- R118: for every list of lanes, VLQDEC of VLQENC of it gives it back. -/
def Obligations.VlqRoundTrip : Prop :=
  ∀ s t u : State, s.roomFor (vlqTextOf s.input).length → exec .vlqenc s = .next t →
    FeedsInto t u → u.roomFor s.ilen.toNat →
    exec .vlqdec u = .next (u.completed s.input 0 0 0 0 0)

/-! ### Integers -/

/-- R131 for the eight bytes-to-integers ops (R133 to R140): lane `k` is the sum of its group's bytes, each at its place,
extended as the op's port says; the bytes of an incomplete last group give nothing. -/
def Obligations.BytesToIntegersResult : Prop :=
  ∀ (le signed : Bool) (i : Instr) (w : Nat) (s : State), (i, w, signed) ∈ bytesToIntOps le →
    s.roomFor (s.ilen.toNat / w) →
    exec i s = .next (s.completed
      (laneTable (s.ilen.toNat / w) fun k => extendedValue w signed (groupValue w le s.byteAt (w * k))) 0 0 0 0 0)

/-- R132 for the eight integers-to-bytes ops (R141 to R148): each lane's low bytes in the order LE selects. -/
def Obligations.IntegersToBytesResult : Prop :=
  ∀ (le : Bool) (i : Instr) (w : Nat) (s : State), (i, w) ∈ intToBytesOps le →
    s.roomFor (s.ilen.toNat * w) →
    exec i s = .next (s.completed
      (laneTable (s.ilen.toNat * w) (valueByteAt w le fun k => (s.ibuf.read k).toNat)) 0 0 0 0 0)

/-- R149: integers to bytes undoes bytes to integers on the whole groups; bytes to integers after integers to bytes gives
the value modulo 2^(8w); and reversing the byte order of each group while flipping LE gives the same integers. -/
def Obligations.IntegerRoundTrips : Prop :=
  (∀ (le signed : Bool) (i j : Instr) (w : Nat) (s t u : State), (i, w, signed) ∈ bytesToIntOps le →
    (j, w) ∈ intToBytesOps le → FeedsInto t u →
    (s.roomFor (s.ilen.toNat / w) → exec i s = .next t → u.roomFor (s.ilen.toNat / w * w) →
      exec j u = .next (u.completed (asLanes (s.byteValues.take (w * (s.ilen.toNat / w)))) 0 0 0 0 0)) ∧
    (s.roomFor (s.ilen.toNat * w) → exec j s = .next t → u.roomFor s.ilen.toNat →
      exec i u = .next (u.completed (laneTable s.ilen.toNat fun k =>
        extendedValue w signed ((s.ibuf.read k).toNat % 2 ^ (8 * w))) 0 0 0 0 0))) ∧
  (∀ (le signed : Bool) (i j : Instr) (w : Nat) (s t u : State), (i, w, signed) ∈ bytesToIntOps le →
    (j, w, signed) ∈ bytesToIntOps (!le) → u.ilen = s.ilen → u.icap = s.icap → u.ocap = s.ocap →
    (∀ k m, k < s.ilen.toNat / w → m < w → u.byteAt (w * k + m) = s.byteAt (w * k + (w - 1 - m))) →
    exec i s = .next t →
    ∃ v, exec j u = .next v ∧ v.status = t.status ∧ v.olen = t.olen ∧ v.obuf = t.obuf)

/-! ### Floats -/

/-- R164, with the widening of every group as `widen32` gives it (its value is `WideningKeepsTheValue`). -/
def Obligations.B2f32Result : Prop :=
  ∀ (le : Bool) (s : State), s.roomFor (s.ilen.toNat / 4) →
    exec (.b2f32 le) s = .next (s.completed (laneTable (s.ilen.toNat / 4) fun k =>
      (widen32 (BitVec.ofNat 32 (groupValue 4 le s.byteAt (4 * k)))).toNat) 0 0 0 0 0)

/-- R163: `widen32` gives the binary64 pattern of the same value, by the values of R161, and the one NaN of R162. -/
def Obligations.WideningKeepsTheValue : Prop :=
  ∀ p : Word32, WidensTo p.toNat (widen32 p).toNat

/-- R165: the assembled pattern, every NaN made the canonical one. -/
def Obligations.B2f64Result : Prop :=
  ∀ (le : Bool) (s : State), s.roomFor (s.ilen.toNat / 8) →
    exec (.b2f64 le) s = .next (s.completed (laneTable (s.ilen.toNat / 8) fun k =>
      canonicalPattern (groupValue 8 le s.byteAt (8 * k))) 0 0 0 0 0)

/-- R167, with the narrowing of every lane as `narrow64` gives it (its value is `NarrowingRoundsToNearestEven`). -/
def Obligations.F32tobResult : Prop :=
  ∀ (le : Bool) (s : State), s.roomFor (s.ilen.toNat * 4) →
    exec (.f32tob le) s = .next (s.completed (laneTable (s.ilen.toNat * 4)
      (valueByteAt 4 le fun k => (narrow64 (s.ibuf.read k)).toNat)) 0 0 0 0 0)

/-- R166: `narrow64` gives the binary32 pattern nearest in value to the binary64 pattern, ties to the even mantissa, 2^128
and above to infinity, the sign kept; and the one NaN of R162. -/
def Obligations.NarrowingRoundsToNearestEven : Prop :=
  ∀ p : Lane, RoundsTo p.toNat (narrow64 p).toNat

/-- R168: each lane's eight bytes, every NaN made the canonical one, nothing rounded. -/
def Obligations.F64tobResult : Prop :=
  ∀ (le : Bool) (s : State), s.roomFor (s.ilen.toNat * 8) →
    exec (.f64tob le) s = .next (s.completed (laneTable (s.ilen.toNat * 8)
      (valueByteAt 8 le fun k => canonicalPattern (s.ibuf.read k).toNat)) 0 0 0 0 0)

/-- R169: on whole groups none of which is a NaN, F64TOB undoes B2F64 and F32TOB undoes B2F32, with the same LE. -/
def Obligations.FloatRoundTrips : Prop :=
  ∀ (le : Bool) (s t u : State), FeedsInto t u → u.roomFor s.ilen.toNat →
    (s.roomFor (s.ilen.toNat / 8) → s.ilen.toNat % 8 = 0 →
      (∀ k, k < s.ilen.toNat / 8 → nan64 (groupValue 8 le s.byteAt (8 * k)) = false) →
      exec (.b2f64 le) s = .next t → exec (.f64tob le) u = .next (u.completed (asLanes s.byteValues) 0 0 0 0 0)) ∧
    (s.roomFor (s.ilen.toNat / 4) → s.ilen.toNat % 4 = 0 →
      (∀ k, k < s.ilen.toNat / 4 → nan32 (groupValue 4 le s.byteAt (4 * k)) = false) →
      exec (.b2f32 le) s = .next t → exec (.f32tob le) u = .next (u.completed (asLanes s.byteValues) 0 0 0 0 0))

/-! ### SHA-1 -/

/-- R182: the padded message, byte by byte. -/
def Obligations.Sha1Padding : Prop :=
  ∀ bs : List Byte,
    (sha1Pad bs).map BitVec.toNat =
      (List.range (64 * ((bs.length + 8) / 64 + 1))).map
        (paddedByteAt (fun k => (bs.getD k 0).toNat) bs.length)

/-- R181 with R183 to R186: the accumulators go from the initial values through every block of the padded message, each
by its schedule and its 80 rounds; RES0 to RES4 and the 40 characters are the last ones. -/
def Obligations.Sha1Result : Prop :=
  ∀ s : State, s.roomFor 40 → ∃ h : Nat → Sha1Words,
    h 0 = ⟨0x67452301, 0xEFCDAB89, 0x98BADCFE, 0x10325476, 0xC3D2E1F0⟩ ∧
    (∀ k, k < (s.ilen.toNat + 8) / 64 + 1 →
      BlockTakes (fun j => paddedByteAt s.byteAt s.ilen.toNat (64 * k + j)) (h k) (h (k + 1))) ∧
    exec .sha1 s = .next (s.completed (laneTable 40 (digestCharAt (h ((s.ilen.toNat + 8) / 64 + 1))))
      ((h ((s.ilen.toNat + 8) / 64 + 1)).a.setWidth 64) ((h ((s.ilen.toNat + 8) / 64 + 1)).b.setWidth 64)
      ((h ((s.ilen.toNat + 8) / 64 + 1)).c.setWidth 64) ((h ((s.ilen.toNat + 8) / 64 + 1)).d.setWidth 64)
      ((h ((s.ilen.toNat + 8) / 64 + 1)).e.setWidth 64))

/-! ### Transcoders -/

/-- R203 on well-formed text: every sequence of R202, with ALLOW_OVERLONG = 1 the overlong ones too and with ALLOW_SURR = 1
the surrogate halves, each with its value, in both modes (R201 (f), R209); with BOM = 1 a first mark is taken off and,
where the text does not begin with one, nothing is (R204). -/
def Obligations.Utf8B2cOnWellFormedText : Prop :=
  ∀ overlong surr : Bool, WellFormedTextRule (fun _ strict bom => .utf8B2c strict overlong surr bom) (fun _ => utf8Form)
    (fun _ => Utf8Text overlong surr)

/-- R223 and R222 on well-formed text: the forms of R221, and with ALLOW_SURR = 1 unpaired surrogate halves, each left as it
is in both modes (R227); LE decides the byte order unless BOM = 1 and a mark stands first; then the mark decides. -/
def Obligations.Utf16B2cOnWellFormedText : Prop :=
  ∀ surr : Bool, WellFormedTextRule (fun le strict bom => .utf16B2c le strict surr bom) utf16Form (Utf16Text surr)

/-- R225 and R222 on well-formed text, with surrogate halves when ALLOW_SURR = 1; the byte order as for UTF-16. -/
def Obligations.Utf32B2cOnWellFormedText : Prop :=
  ∀ surr : Bool, WellFormedTextRule (fun le strict bom => .utf32B2c le strict surr bom) utf32Form (Utf32Text surr)

/-- R201 (b) and (c): on every input whatsoever a lenient bytes-to-codepoints command ends without an error of its own, with
at most one lane for each byte, each a scalar value, or a surrogate half only if ALLOW_SURR = 1. -/
def Obligations.LenientDecodersAreTotal : Prop :=
  ∀ (le overlong surr bom : Bool) (i : Instr) (s : State), i ∈ lenientDecodeOps le overlong surr bom → s.ready →
    ∃ cps : List Nat, cps.length ≤ s.ilen.toNat ∧ cps.all (isCarried surr) = true ∧
      exec i s = .next (if cps.length ≤ s.ocap.toNat then s.completed (asLanes cps) 0 0 0 0 0
        else s.failed 0x53 s.ocap 1)

/-- R205: each malformed unit of UTF-8, after well-formed text with or without a mark before it, gives one U+FFFD in lenient
mode and E_FORMAT at its first byte in strict mode. -/
def Obligations.MalformedUtf8Units : Prop :=
  ∀ overlong surr : Bool, MalformedUnitRule (fun _ strict bom => .utf8B2c strict overlong surr bom) (fun _ => utf8Form)
    (fun _ => Utf8Text overlong surr) (fun _ => MalformedUtf8 overlong surr)

/-- R227: each malformed unit of UTF-16 and of UTF-32, in the same two modes, with or without a mark (R222). -/
def Obligations.MalformedUtf16AndUtf32Units : Prop :=
  ∀ surr : Bool,
    MalformedUnitRule (fun le strict bom => .utf16B2c le strict surr bom) utf16Form (Utf16Text surr)
      (fun le => MalformedUtf16 le surr) ∧
    MalformedUnitRule (fun le strict bom => .utf32B2c le strict surr bom) utf32Form (Utf32Text surr)
      (fun le => MalformedUtf32 le surr)

/-- R206, R224 and R226 on lanes that raise nothing: the mark if BOM = 1, then the form of every lane, a surrogate half
that is not allowed written as U+FFFD (lenient mode only). -/
def Obligations.CodepointsToBytesResult : Prop :=
  ∀ (le strict surr bom : Bool) (i : Instr) (form : Nat → List Nat) (s : State),
    (i, form) ∈ codepointToByteOps le strict surr bom →
    (∀ v ∈ s.input, v.toNat ≤ 0x10FFFF ∧ (strict = true → isCarried surr v.toNat = true)) →
    s.roomFor ((if bom then form 0xFEFF else []) ++
      encodedText form (s.input.map fun v => writtenCodepoint surr v.toNat)).length →
    exec i s = .next (s.completed (asLanes ((if bom then form 0xFEFF else []) ++
      encodedText form (s.input.map fun v => writtenCodepoint surr v.toNat))) 0 0 0 0 0)

/-- The errors of R206, R224 and R226 (R201 (g)): the first offending lane decides; a lane above 0x10FFFF is E_RANGE in both
modes, a surrogate half is E_FORMAT when STRICT = 1 and ALLOW_SURR = 0. -/
def Obligations.CodepointsToBytesErrors : Prop :=
  ∀ (le strict surr bom : Bool) (i : Instr) (form : Nat → List Nat) (s : State) (k : Nat),
    (i, form) ∈ codepointToByteOps le strict surr bom → s.ready → k < s.ilen.toNat →
    (∀ m, m < k → (s.ibuf.read m).toNat ≤ 0x10FFFF ∧
      (strict = true → isCarried surr (s.ibuf.read m).toNat = true)) →
    (0x10FFFF < (s.ibuf.read k).toNat → exec i s = .next (s.failed 0x23 (BitVec.ofNat 64 k) (s.ibuf.read k))) ∧
    (0xD800 ≤ (s.ibuf.read k).toNat → (s.ibuf.read k).toNat ≤ 0xDFFF → strict = true → surr = false →
      exec i s = .next (s.failed 0x13 (BitVec.ofNat 64 k) (s.ibuf.read k)))

/-- R208 and R228: bytes to codepoints undoes codepoints to bytes, with the same BOM flag on both: UTF-8 and UTF-32 with
any carried values, UTF-16 unless a high surrogate half stands directly before a low one (R224); with BOM = 1 the second
command's LE does not matter. -/
def Obligations.TranscodersRoundTrip : Prop :=
  ∀ (le other strict strict' overlong surr bom : Bool) (s t u : State), FeedsInto t u → u.roomFor s.ilen.toNat →
    (∀ v ∈ s.input, isCarried surr v.toNat = true) → (bom = false → other = le) → t.status = 0x01 →
    (exec (.utf8C2b strict surr bom) s = .next t →
      exec (.utf8B2c strict' overlong surr bom) u = .next (u.completed s.input 0 0 0 0 0)) ∧
    (halvesApart (s.input.map BitVec.toNat) = true → exec (.utf16C2b le strict surr bom) s = .next t →
      exec (.utf16B2c other strict' surr bom) u = .next (u.completed s.input 0 0 0 0 0)) ∧
    (exec (.utf32C2b le strict surr bom) s = .next t →
      exec (.utf32B2c other strict' surr bom) u = .next (u.completed s.input 0 0 0 0 0))

/-! ### PNG and WebSocket -/

/-- R256 with R251 to R255: the 136 bytes for every colour, the two checksums by the checksum engines. The constant bytes are
general knowledge in the spec's own words (log 15). -/
def Obligations.PngrgbaResult : Prop :=
  ∀ s : State, s.roomFor 136 →
    let raw := (List.range 68).map (rawByteAt s.arg0.toNat)
    let idat := [0x49, 0x44, 0x41, 0x54] ++ [0x78, 0x01, 0x01, 0x44, 0x00, 0xBB, 0xFF] ++ raw
      ++ bigEndian32 (adler32 (asBytes raw)).toNat
    exec .pngrgba s = .next (s.completed (asLanes (
      [0x89, 0x50, 0x4E, 0x47, 0x0D, 0x0A, 0x1A, 0x0A]
      ++ [0x00, 0x00, 0x00, 0x0D, 0x49, 0x48, 0x44, 0x52, 0x00, 0x00, 0x00, 0x04, 0x00, 0x00, 0x00, 0x04,
          0x08, 0x06, 0x00, 0x00, 0x00, 0xA9, 0xF1, 0x9E, 0x7E]
      ++ [0x00, 0x00, 0x00, 0x4F] ++ idat ++ bigEndian32 (crc32 (asBytes idat)).toNat
      ++ [0x00, 0x00, 0x00, 0x00, 0x49, 0x45, 0x4E, 0x44, 0xAE, 0x42, 0x60, 0x82])) 0 0 0 0 0)

/-- R263: the header in its minimal form, then the payload, masked when a key is supplied and NOMASK = 0. -/
def Obligations.WsencResult : Prop :=
  ∀ (nomask hasmask : Bool) (s : State),
    s.roomFor ((frameHeader hasmask s.arg0.toNat s.arg1.toNat s.ilen.toNat).length + s.ilen.toNat) →
    exec (.wsenc nomask hasmask) s = .next (s.completed
      (asLanes (frameHeader hasmask s.arg0.toNat s.arg1.toNat s.ilen.toNat) ++
        laneTable s.ilen.toNat fun k =>
          if hasmask = true ∧ nomask = false then maskedByte s.arg1.toNat k (s.byteAt k) else s.byteAt k) 0 0 0 0 0)

/-- R264. On input that holds a whole header: the payload as far as it is there and as far as it is declared, and the
header's fields in RES0 to RES3 as R262 lays them out. On input that ends inside the header: E_FORMAT, ERRPOS the input's
length and ERRINFO the header length needed as far as it is known. -/
def Obligations.WsdecResult : Prop :=
  ∀ (nomask : Bool) (s : State),
    (2 ≤ s.ilen.toNat → (frameFields s.byteAt).header ≤ s.ilen.toNat →
      s.roomFor (min (frameFields s.byteAt).declared (s.ilen.toNat - (frameFields s.byteAt).header)) →
      exec (.wsdec nomask) s = .next (s.completed
        (laneTable (min (frameFields s.byteAt).declared (s.ilen.toNat - (frameFields s.byteAt).header)) fun k =>
          if (frameFields s.byteAt).masked = 1 ∧ nomask = false
          then maskedByte (frameFields s.byteAt).key k (s.byteAt ((frameFields s.byteAt).header + k))
          else s.byteAt ((frameFields s.byteAt).header + k))
        (BitVec.ofNat 64 (frameWord (s.byteAt 0) (frameFields s.byteAt).masked))
        (BitVec.ofNat 64 (frameFields s.byteAt).declared) (BitVec.ofNat 64 (frameFields s.byteAt).key)
        (BitVec.ofNat 64 (frameFields s.byteAt).header) 0)) ∧
    (s.ready → s.ilen.toNat < 2 → exec (.wsdec nomask) s = .next (s.failed 0x13 s.ilen 2)) ∧
    (s.ready → 2 ≤ s.ilen.toNat → s.ilen.toNat < (frameFields s.byteAt).header →
      exec (.wsdec nomask) s = .next (s.failed 0x13 s.ilen (BitVec.ofNat 64 (frameFields s.byteAt).header)))

/-- R265, for both values of NOMASK on either command: WSDEC of what WSENC built gives the flags, the opcode, the length, the
key and the payload back; with NOMASK on exactly one of the two and a key, the payload is masked. -/
def Obligations.WebSocketRoundTrip : Prop :=
  ∀ (nomask nomask' hasmask : Bool) (s t u : State),
    s.roomFor ((frameHeader hasmask s.arg0.toNat s.arg1.toNat s.ilen.toNat).length + s.ilen.toNat) →
    exec (.wsenc nomask hasmask) s = .next t → FeedsInto t u → u.roomFor s.ilen.toNat →
    ∃ v, exec (.wsdec nomask') u = .next v ∧ v.status = 0x01 ∧ v.output = (laneTable s.ilen.toNat fun k =>
        if hasmask = true ∧ nomask ≠ nomask' then maskedByte s.arg1.toNat k (s.byteAt k) else s.byteAt k) ∧
    v.olen = s.ilen ∧ v.res0.extractLsb' 0 8 = s.arg0.extractLsb' 0 8 ∧ v.res0.getLsbD 8 = hasmask ∧
    v.res1 = s.ilen ∧ v.res2 = (if hasmask then s.arg1 &&& 0xFFFFFFFF else 0) ∧
    v.res3 = BitVec.ofNat 64 (frameHeader hasmask s.arg0.toNat s.arg1.toNat s.ilen.toNat).length ∧ v.res4 = 0
end

