-- ==== Sys2Proof/Laws/Memory.lean ====
section
/-! SUPPORT. The laws of a buffer: a lane reads as it was last written, every other lane is left alone, every operation
keeps the canonical form, equal contents in canonical form are equal data, and a delivered sequence reads back. -/

namespace Sys2Proof.Machine

@[simp] theorem Memory.read_nil (i : Nat) : Memory.read [] i = 0 := rfl

@[simp] theorem Memory.wf_nil : Memory.wf [] = true := rfl

@[simp] theorem Memory.within_nil (n : Nat) : Memory.within [] n = true := rfl

/-- The canonical form from `lo` on, taken apart. -/
theorem Memory.wfFrom_cons (lo a : Nat) (v : Lane) (t : Memory) :
    Memory.wfFrom lo ((a, v) :: t) = true ↔ lo ≤ a ∧ v ≠ 0 ∧ Memory.wfFrom (a + 1) t = true := by
  simp [Memory.wfFrom, and_assoc]

theorem Memory.wfFrom_mono {lo lo' : Nat} (h : lo' ≤ lo) :
    ∀ {m : Memory}, Memory.wfFrom lo m = true → Memory.wfFrom lo' m = true
  | [], _ => rfl
  | (a, v) :: t, hm => by
    rw [Memory.wfFrom_cons] at hm ⊢
    exact ⟨h.trans hm.1, hm.2⟩

/-- Writing 0 or another value, one equation for each place of the index. -/
theorem Memory.write_nil (i : Nat) (v : Lane) : Memory.write [] i v = if v = 0 then [] else [(i, v)] := rfl

theorem Memory.write_before {i a : Nat} (h : i < a) (x v : Lane) (t : Memory) :
    Memory.write ((a, x) :: t) i v = if v = 0 then (a, x) :: t else (i, v) :: (a, x) :: t := by
  simp only [Memory.write, if_pos h]

theorem Memory.write_at (a : Nat) (x v : Lane) (t : Memory) :
    Memory.write ((a, x) :: t) a v = if v = 0 then t else (a, v) :: t := by
  simp only [Memory.write, Nat.lt_irrefl, if_true, if_false]

theorem Memory.write_after {i a : Nat} (h : a < i) (x v : Lane) (t : Memory) :
    Memory.write ((a, x) :: t) i v = (a, x) :: Memory.write t i v := by
  simp only [Memory.write, if_neg (Nat.lt_asymm h), if_neg (Nat.ne_of_gt h)]

theorem Memory.read_cons_self (a : Nat) (x : Lane) (t : Memory) : Memory.read ((a, x) :: t) a = x := by
  simp only [Memory.read, if_true]

theorem Memory.read_cons_ne {a i : Nat} (h : a ≠ i) (x : Lane) (t : Memory) :
    Memory.read ((a, x) :: t) i = t.read i := by
  simp only [Memory.read, if_neg h]

/-- Below its first index a canonical buffer reads 0. -/
theorem Memory.read_below : ∀ {m : Memory} {lo i : Nat}, Memory.wfFrom lo m = true → i < lo → m.read i = 0
  | [], _, _, _, _ => rfl
  | (a, v) :: t, lo, i, hm, hi => by
    rw [Memory.wfFrom_cons] at hm
    have hne : a ≠ i := by omega
    simp only [Memory.read, if_neg hne]
    exact Memory.read_below hm.2.2 (by omega)

/-- Reading after a write in a canonical buffer (R24: "The host writes and reads any lane"). -/
theorem Memory.read_write : ∀ {m : Memory} {lo : Nat}, Memory.wfFrom lo m = true → ∀ (i j : Nat) (v : Lane),
    (m.write i v).read j = if j = i then v else m.read j
  | [], _, _, i, j, v => by
    rw [Memory.write_nil]
    by_cases hj : j = i
    · subst hj; split
      · simp_all
      · rw [Memory.read_cons_self, if_pos rfl]
    · rw [if_neg hj]; split
      · rfl
      · rw [Memory.read_cons_ne (Ne.symm hj)]
  | (a, x) :: t, lo, hm, i, j, v => by
    rw [Memory.wfFrom_cons] at hm
    rcases Nat.lt_trichotomy i a with hlt | rfl | hgt
    · rw [Memory.write_before hlt]
      by_cases hj : j = i
      · subst hj; rw [if_pos rfl]; split
        · rename_i hv
          rw [Memory.read_cons_ne (Nat.ne_of_gt hlt), Memory.read_below hm.2.2 (Nat.lt_succ_of_lt hlt), hv]
        · rw [Memory.read_cons_self]
      · rw [if_neg hj]; split
        · rfl
        · rw [Memory.read_cons_ne (Ne.symm hj)]
    · rw [Memory.write_at]
      by_cases hj : j = i
      · subst hj; rw [if_pos rfl]; split
        · rename_i hv
          rw [Memory.read_below hm.2.2 (Nat.lt_succ_self j), hv]
        · rw [Memory.read_cons_self]
      · rw [if_neg hj, Memory.read_cons_ne (Ne.symm hj)]; split
        · rfl
        · rw [Memory.read_cons_ne (Ne.symm hj)]
    · rw [Memory.write_after hgt]
      by_cases ha : a = j
      · subst ha; rw [Memory.read_cons_self, Memory.read_cons_self, if_neg (Nat.ne_of_lt hgt)]
      · rw [Memory.read_cons_ne ha, Memory.read_cons_ne ha, Memory.read_write hm.2.2]

/-- A write keeps the canonical form. -/
theorem Memory.wfFrom_write : ∀ {m : Memory} {lo : Nat}, Memory.wfFrom lo m = true → ∀ (i : Nat) (v : Lane),
    Memory.wfFrom (min lo i) (m.write i v) = true
  | [], lo, _, i, v => by
    rw [Memory.write_nil]; split
    · rfl
    · rename_i hv
      exact (Memory.wfFrom_cons ..).2 ⟨Nat.min_le_right .., hv, rfl⟩
  | (a, x) :: t, lo, hm, i, v => by
    rw [Memory.wfFrom_cons] at hm
    rcases Nat.lt_trichotomy i a with hlt | rfl | hgt
    · rw [Memory.write_before hlt]; split
      · exact (Memory.wfFrom_cons ..).2 ⟨by omega, hm.2⟩
      · rename_i hv
        exact (Memory.wfFrom_cons ..).2 ⟨by omega, hv, (Memory.wfFrom_cons ..).2 ⟨hlt, hm.2⟩⟩
    · rw [Memory.write_at]; split
      · exact Memory.wfFrom_mono (by omega) hm.2.2
      · rename_i hv
        exact (Memory.wfFrom_cons ..).2 ⟨by omega, hv, hm.2.2⟩
    · rw [Memory.write_after hgt]
      refine (Memory.wfFrom_cons ..).2 ⟨by omega, hm.2.1, ?_⟩
      have := Memory.wfFrom_write hm.2.2 i v
      rwa [Nat.min_eq_left hgt] at this

/-- A write keeps the canonical form of a whole buffer. -/
theorem Memory.wf_write {m : Memory} (h : m.wf = true) (i : Nat) (v : Lane) : (m.write i v).wf = true := by
  have := Memory.wfFrom_write h i v
  rwa [Nat.zero_min] at this

theorem Memory.within_cons (n a : Nat) (x : Lane) (t : Memory) :
    Memory.within ((a, x) :: t) n = true ↔ a < n ∧ t.within n = true := by
  simp [Memory.within]

/-- A write below `n` keeps a buffer inside `n` lanes. -/
theorem Memory.within_write {n : Nat} : ∀ {m : Memory}, m.within n = true → ∀ {i : Nat}, i < n → ∀ v : Lane,
    (m.write i v).within n = true
  | [], _, i, hi, v => by
    rw [Memory.write_nil]; split
    · rfl
    · exact (Memory.within_cons ..).2 ⟨hi, rfl⟩
  | (a, x) :: t, hm, i, hi, v => by
    have h := (Memory.within_cons ..).1 hm
    rcases Nat.lt_trichotomy i a with hlt | rfl | hgt
    · rw [Memory.write_before hlt]; split
      · exact hm
      · exact (Memory.within_cons ..).2 ⟨hi, hm⟩
    · rw [Memory.write_at]; split
      · exact h.2
      · exact (Memory.within_cons ..).2 ⟨hi, h.2⟩
    · rw [Memory.write_after hgt]
      exact (Memory.within_cons ..).2 ⟨h.1, Memory.within_write h.2 hi v⟩

theorem Memory.wfFrom_ofListFrom : ∀ (i : Nat) (out : List Lane), Memory.wfFrom i (Memory.ofListFrom i out) = true
  | _, [] => rfl
  | i, v :: t => by
    by_cases hv : v = 0
    · simp only [Memory.ofListFrom, if_pos hv]
      exact Memory.wfFrom_mono (Nat.le_succ i) (Memory.wfFrom_ofListFrom (i + 1) t)
    · simp only [Memory.ofListFrom, if_neg hv, Memory.wfFrom_cons]
      exact ⟨le_rfl, hv, Memory.wfFrom_ofListFrom (i + 1) t⟩

/-- A delivered sequence is in canonical form. -/
@[simp] theorem Memory.wf_ofList (out : List Lane) : (Memory.ofList out).wf = true :=
  Memory.wfFrom_ofListFrom 0 out

theorem Memory.within_ofListFrom : ∀ (i : Nat) (out : List Lane),
    (Memory.ofListFrom i out).within (i + out.length) = true
  | _, [] => rfl
  | i, v :: t => by
    have ih := Memory.within_ofListFrom (i + 1) t
    rw [Nat.add_right_comm] at ih
    rw [Memory.ofListFrom]; split
    · exact ih
    · exact (Memory.within_cons ..).2 ⟨by simp, ih⟩

/-- A delivered sequence lies below its length. -/
@[simp] theorem Memory.within_ofList (out : List Lane) : (Memory.ofList out).within out.length = true := by
  have := Memory.within_ofListFrom 0 out
  rwa [Nat.zero_add] at this

theorem Memory.read_ofListFrom : ∀ (i j : Nat) (out : List Lane),
    (Memory.ofListFrom i out).read (i + j) = out.getD j 0
  | _, _, [] => by simp [Memory.ofListFrom]
  | i, 0, v :: t => by
    rw [Memory.ofListFrom]; split
    · rename_i hv
      exact (Memory.read_below (Memory.wfFrom_ofListFrom (i + 1) t) (Nat.lt_succ_self i)).trans hv.symm
    · exact Memory.read_cons_self ..
  | i, j + 1, v :: t => by
    have ih := Memory.read_ofListFrom (i + 1) j t
    rw [Nat.add_right_comm] at ih
    rw [Memory.ofListFrom, List.getD_cons_succ]; split
    · exact ih
    · rw [Memory.read_cons_ne (by omega)]; exact ih

/-- A delivered sequence reads back lane by lane, and 0 beyond it (R31 step 8, R51). -/
@[simp] theorem Memory.read_ofList (out : List Lane) (j : Nat) : (Memory.ofList out).read j = out.getD j 0 := by
  have := Memory.read_ofListFrom 0 j out
  rwa [Nat.zero_add] at this

/-- Outside `n` lanes a buffer that lies inside them reads 0. -/
theorem Memory.read_of_within {n : Nat} : ∀ {m : Memory}, m.within n = true → ∀ {i : Nat}, n ≤ i → m.read i = 0
  | [], _, _, _ => rfl
  | (a, x) :: t, hm, i, hi => by
    have h := (Memory.within_cons ..).1 hm
    rw [Memory.read_cons_ne (by omega)]
    exact Memory.read_of_within h.2 hi

/-- Two buffers in canonical form that read alike everywhere are the same data. -/
theorem Memory.eq_of_read_eq : ∀ {m m' : Memory} {lo : Nat}, Memory.wfFrom lo m = true → Memory.wfFrom lo m' = true →
    (∀ i, m.read i = m'.read i) → m = m'
  | [], [], _, _, _, _ => rfl
  | [], (b, y) :: t', lo, _, hm', h => by
    rw [Memory.wfFrom_cons] at hm'
    have := h b
    simp only [Memory.read, if_true] at this
    exact absurd this.symm hm'.2.1
  | (a, x) :: t, [], lo, hm, _, h => by
    rw [Memory.wfFrom_cons] at hm
    have := h a
    simp only [Memory.read, if_true] at this
    exact absurd this hm.2.1
  | (a, x) :: t, (b, y) :: t', lo, hm, hm', h => by
    rw [Memory.wfFrom_cons] at hm hm'
    have ha := h a
    have hb := h b
    have hab : a = b := by
      rcases Nat.lt_trichotomy a b with hlt | heq | hgt
      · rw [Memory.read, if_pos rfl, Memory.read, if_neg (by omega), Memory.read_below hm'.2.2 (by omega)] at ha
        exact absurd ha hm.2.1
      · exact heq
      · rw [Memory.read, if_neg (by omega), Memory.read_below hm.2.2 (by omega), Memory.read, if_pos rfl] at hb
        exact absurd hb.symm hm'.2.1
    subst hab
    have hxy : x = y := by simpa [Memory.read] using ha
    subst hxy
    have ht : t = t' := Memory.eq_of_read_eq hm.2.2 hm'.2.2 fun i => by
      by_cases hi : i = a
      · rw [hi, Memory.read_below hm.2.2 (by omega), Memory.read_below hm'.2.2 (by omega)]
      · simpa [Memory.read, Ne.symm hi] using h i
    rw [ht]

/-- Right after reset both buffers are in canonical form. -/
theorem State.reset_memories_wf : State.reset.ibuf.wf = true ∧ State.reset.obuf.wf = true := ⟨rfl, rfl⟩

end Sys2Proof.Machine
end

