-- ==== Sys2Proof/Laws/State.lean ====
section
/-! SUPPORT. One lemma per field per named update of the state, each true by rfl, so that no later proof unfolds a record
update; and the same for the initial state. -/

namespace Sys2Proof.Machine

/-! ### clearOutputs: R31 step 2 -/

@[simp] theorem State.clearOutputs_cmd (s : State) : (s.clearOutputs).cmd = s.cmd := rfl
@[simp] theorem State.clearOutputs_status (s : State) : (s.clearOutputs).status = statusCleared s.status := rfl
@[simp] theorem State.clearOutputs_errpos (s : State) : (s.clearOutputs).errpos = 0 := rfl
@[simp] theorem State.clearOutputs_errinfo (s : State) : (s.clearOutputs).errinfo = 0 := rfl
@[simp] theorem State.clearOutputs_ilen (s : State) : (s.clearOutputs).ilen = s.ilen := rfl
@[simp] theorem State.clearOutputs_olen (s : State) : (s.clearOutputs).olen = 0 := rfl
@[simp] theorem State.clearOutputs_icap (s : State) : (s.clearOutputs).icap = s.icap := rfl
@[simp] theorem State.clearOutputs_ocap (s : State) : (s.clearOutputs).ocap = s.ocap := rfl
@[simp] theorem State.clearOutputs_arg0 (s : State) : (s.clearOutputs).arg0 = s.arg0 := rfl
@[simp] theorem State.clearOutputs_arg1 (s : State) : (s.clearOutputs).arg1 = s.arg1 := rfl
@[simp] theorem State.clearOutputs_res0 (s : State) : (s.clearOutputs).res0 = 0 := rfl
@[simp] theorem State.clearOutputs_res1 (s : State) : (s.clearOutputs).res1 = 0 := rfl
@[simp] theorem State.clearOutputs_res2 (s : State) : (s.clearOutputs).res2 = 0 := rfl
@[simp] theorem State.clearOutputs_res3 (s : State) : (s.clearOutputs).res3 = 0 := rfl
@[simp] theorem State.clearOutputs_res4 (s : State) : (s.clearOutputs).res4 = 0 := rfl
@[simp] theorem State.clearOutputs_ibuf (s : State) : (s.clearOutputs).ibuf = s.ibuf := rfl
@[simp] theorem State.clearOutputs_obuf (s : State) : (s.clearOutputs).obuf = [] := rfl
@[simp] theorem State.clearOutputs_script (s : State) : (s.clearOutputs).script = s.script := rfl
@[simp] theorem State.clearOutputs_replies (s : State) : (s.clearOutputs).replies = s.replies := rfl

/-! ### finish: R31 step 9 -/

@[simp] theorem State.finish_cmd (s : State) : (s.finish).cmd = s.cmd := rfl
@[simp] theorem State.finish_status (s : State) : (s.finish).status = statusDone s.status := rfl
@[simp] theorem State.finish_errpos (s : State) : (s.finish).errpos = s.errpos := rfl
@[simp] theorem State.finish_errinfo (s : State) : (s.finish).errinfo = s.errinfo := rfl
@[simp] theorem State.finish_ilen (s : State) : (s.finish).ilen = s.ilen := rfl
@[simp] theorem State.finish_olen (s : State) : (s.finish).olen = s.olen := rfl
@[simp] theorem State.finish_icap (s : State) : (s.finish).icap = s.icap := rfl
@[simp] theorem State.finish_ocap (s : State) : (s.finish).ocap = s.ocap := rfl
@[simp] theorem State.finish_arg0 (s : State) : (s.finish).arg0 = s.arg0 := rfl
@[simp] theorem State.finish_arg1 (s : State) : (s.finish).arg1 = s.arg1 := rfl
@[simp] theorem State.finish_res0 (s : State) : (s.finish).res0 = s.res0 := rfl
@[simp] theorem State.finish_res1 (s : State) : (s.finish).res1 = s.res1 := rfl
@[simp] theorem State.finish_res2 (s : State) : (s.finish).res2 = s.res2 := rfl
@[simp] theorem State.finish_res3 (s : State) : (s.finish).res3 = s.res3 := rfl
@[simp] theorem State.finish_res4 (s : State) : (s.finish).res4 = s.res4 := rfl
@[simp] theorem State.finish_ibuf (s : State) : (s.finish).ibuf = s.ibuf := rfl
@[simp] theorem State.finish_obuf (s : State) : (s.finish).obuf = s.obuf := rfl
@[simp] theorem State.finish_script (s : State) : (s.finish).script = s.script := rfl
@[simp] theorem State.finish_replies (s : State) : (s.finish).replies = s.replies := rfl

/-! ### fail: the error write R303 -/

@[simp] theorem State.fail_cmd (s : State) (e : OpError) : (s.fail e).cmd = s.cmd := rfl
@[simp] theorem State.fail_status (s : State) (e : OpError) : (s.fail e).status = statusDone (statusError e.code s.status) := rfl
@[simp] theorem State.fail_errpos (s : State) (e : OpError) : (s.fail e).errpos = BitVec.ofNat 64 e.pos := rfl
@[simp] theorem State.fail_errinfo (s : State) (e : OpError) : (s.fail e).errinfo = BitVec.ofNat 64 e.info := rfl
@[simp] theorem State.fail_ilen (s : State) (e : OpError) : (s.fail e).ilen = s.ilen := rfl
@[simp] theorem State.fail_olen (s : State) (e : OpError) : (s.fail e).olen = s.olen := rfl
@[simp] theorem State.fail_icap (s : State) (e : OpError) : (s.fail e).icap = s.icap := rfl
@[simp] theorem State.fail_ocap (s : State) (e : OpError) : (s.fail e).ocap = s.ocap := rfl
@[simp] theorem State.fail_arg0 (s : State) (e : OpError) : (s.fail e).arg0 = s.arg0 := rfl
@[simp] theorem State.fail_arg1 (s : State) (e : OpError) : (s.fail e).arg1 = s.arg1 := rfl
@[simp] theorem State.fail_res0 (s : State) (e : OpError) : (s.fail e).res0 = s.res0 := rfl
@[simp] theorem State.fail_res1 (s : State) (e : OpError) : (s.fail e).res1 = s.res1 := rfl
@[simp] theorem State.fail_res2 (s : State) (e : OpError) : (s.fail e).res2 = s.res2 := rfl
@[simp] theorem State.fail_res3 (s : State) (e : OpError) : (s.fail e).res3 = s.res3 := rfl
@[simp] theorem State.fail_res4 (s : State) (e : OpError) : (s.fail e).res4 = s.res4 := rfl
@[simp] theorem State.fail_ibuf (s : State) (e : OpError) : (s.fail e).ibuf = s.ibuf := rfl
@[simp] theorem State.fail_obuf (s : State) (e : OpError) : (s.fail e).obuf = s.obuf := rfl
@[simp] theorem State.fail_script (s : State) (e : OpError) : (s.fail e).script = s.script := rfl
@[simp] theorem State.fail_replies (s : State) (e : OpError) : (s.fail e).replies = s.replies := rfl

/-! ### deliver: R31 step 8 -/

@[simp] theorem State.deliver_cmd (s : State) (r : OpResult) : (s.deliver r).cmd = s.cmd := rfl
@[simp] theorem State.deliver_status (s : State) (r : OpResult) : (s.deliver r).status = statusDone s.status := rfl
@[simp] theorem State.deliver_errpos (s : State) (r : OpResult) : (s.deliver r).errpos = s.errpos := rfl
@[simp] theorem State.deliver_errinfo (s : State) (r : OpResult) : (s.deliver r).errinfo = s.errinfo := rfl
@[simp] theorem State.deliver_ilen (s : State) (r : OpResult) : (s.deliver r).ilen = s.ilen := rfl
@[simp] theorem State.deliver_olen (s : State) (r : OpResult) : (s.deliver r).olen = BitVec.ofNat 64 r.out.length := rfl
@[simp] theorem State.deliver_icap (s : State) (r : OpResult) : (s.deliver r).icap = s.icap := rfl
@[simp] theorem State.deliver_ocap (s : State) (r : OpResult) : (s.deliver r).ocap = s.ocap := rfl
@[simp] theorem State.deliver_arg0 (s : State) (r : OpResult) : (s.deliver r).arg0 = s.arg0 := rfl
@[simp] theorem State.deliver_arg1 (s : State) (r : OpResult) : (s.deliver r).arg1 = s.arg1 := rfl
@[simp] theorem State.deliver_res0 (s : State) (r : OpResult) : (s.deliver r).res0 = r.r0 := rfl
@[simp] theorem State.deliver_res1 (s : State) (r : OpResult) : (s.deliver r).res1 = r.r1 := rfl
@[simp] theorem State.deliver_res2 (s : State) (r : OpResult) : (s.deliver r).res2 = r.r2 := rfl
@[simp] theorem State.deliver_res3 (s : State) (r : OpResult) : (s.deliver r).res3 = r.r3 := rfl
@[simp] theorem State.deliver_res4 (s : State) (r : OpResult) : (s.deliver r).res4 = r.r4 := rfl
@[simp] theorem State.deliver_ibuf (s : State) (r : OpResult) : (s.deliver r).ibuf = s.ibuf := rfl
@[simp] theorem State.deliver_obuf (s : State) (r : OpResult) : (s.deliver r).obuf = Memory.ofList r.out := rfl
@[simp] theorem State.deliver_script (s : State) (r : OpResult) : (s.deliver r).script = s.script := rfl
@[simp] theorem State.deliver_replies (s : State) (r : OpResult) : (s.deliver r).replies = s.replies := rfl

/-! ### completed: a command without error -/

@[simp] theorem State.completed_cmd (s : State) (out : List Lane) (r0 r1 r2 r3 r4 : Lane) : (s.completed out r0 r1 r2 r3 r4).cmd = s.cmd := rfl
@[simp] theorem State.completed_status (s : State) (out : List Lane) (r0 r1 r2 r3 r4 : Lane) : (s.completed out r0 r1 r2 r3 r4).status = 0x01 := rfl
@[simp] theorem State.completed_errpos (s : State) (out : List Lane) (r0 r1 r2 r3 r4 : Lane) : (s.completed out r0 r1 r2 r3 r4).errpos = 0 := rfl
@[simp] theorem State.completed_errinfo (s : State) (out : List Lane) (r0 r1 r2 r3 r4 : Lane) : (s.completed out r0 r1 r2 r3 r4).errinfo = 0 := rfl
@[simp] theorem State.completed_ilen (s : State) (out : List Lane) (r0 r1 r2 r3 r4 : Lane) : (s.completed out r0 r1 r2 r3 r4).ilen = s.ilen := rfl
@[simp] theorem State.completed_olen (s : State) (out : List Lane) (r0 r1 r2 r3 r4 : Lane) : (s.completed out r0 r1 r2 r3 r4).olen = BitVec.ofNat 64 out.length := rfl
@[simp] theorem State.completed_icap (s : State) (out : List Lane) (r0 r1 r2 r3 r4 : Lane) : (s.completed out r0 r1 r2 r3 r4).icap = s.icap := rfl
@[simp] theorem State.completed_ocap (s : State) (out : List Lane) (r0 r1 r2 r3 r4 : Lane) : (s.completed out r0 r1 r2 r3 r4).ocap = s.ocap := rfl
@[simp] theorem State.completed_arg0 (s : State) (out : List Lane) (r0 r1 r2 r3 r4 : Lane) : (s.completed out r0 r1 r2 r3 r4).arg0 = s.arg0 := rfl
@[simp] theorem State.completed_arg1 (s : State) (out : List Lane) (r0 r1 r2 r3 r4 : Lane) : (s.completed out r0 r1 r2 r3 r4).arg1 = s.arg1 := rfl
@[simp] theorem State.completed_res0 (s : State) (out : List Lane) (r0 r1 r2 r3 r4 : Lane) : (s.completed out r0 r1 r2 r3 r4).res0 = r0 := rfl
@[simp] theorem State.completed_res1 (s : State) (out : List Lane) (r0 r1 r2 r3 r4 : Lane) : (s.completed out r0 r1 r2 r3 r4).res1 = r1 := rfl
@[simp] theorem State.completed_res2 (s : State) (out : List Lane) (r0 r1 r2 r3 r4 : Lane) : (s.completed out r0 r1 r2 r3 r4).res2 = r2 := rfl
@[simp] theorem State.completed_res3 (s : State) (out : List Lane) (r0 r1 r2 r3 r4 : Lane) : (s.completed out r0 r1 r2 r3 r4).res3 = r3 := rfl
@[simp] theorem State.completed_res4 (s : State) (out : List Lane) (r0 r1 r2 r3 r4 : Lane) : (s.completed out r0 r1 r2 r3 r4).res4 = r4 := rfl
@[simp] theorem State.completed_ibuf (s : State) (out : List Lane) (r0 r1 r2 r3 r4 : Lane) : (s.completed out r0 r1 r2 r3 r4).ibuf = s.ibuf := rfl
@[simp] theorem State.completed_obuf (s : State) (out : List Lane) (r0 r1 r2 r3 r4 : Lane) : (s.completed out r0 r1 r2 r3 r4).obuf = Memory.ofList out := rfl
@[simp] theorem State.completed_script (s : State) (out : List Lane) (r0 r1 r2 r3 r4 : Lane) : (s.completed out r0 r1 r2 r3 r4).script = s.script := rfl
@[simp] theorem State.completed_replies (s : State) (out : List Lane) (r0 r1 r2 r3 r4 : Lane) : (s.completed out r0 r1 r2 r3 r4).replies = s.replies := rfl

/-! ### failed: a command with an error -/

@[simp] theorem State.failed_cmd (s : State) (st pos info : Lane) : (s.failed st pos info).cmd = s.cmd := rfl
@[simp] theorem State.failed_status (s : State) (st pos info : Lane) : (s.failed st pos info).status = st := rfl
@[simp] theorem State.failed_errpos (s : State) (st pos info : Lane) : (s.failed st pos info).errpos = pos := rfl
@[simp] theorem State.failed_errinfo (s : State) (st pos info : Lane) : (s.failed st pos info).errinfo = info := rfl
@[simp] theorem State.failed_ilen (s : State) (st pos info : Lane) : (s.failed st pos info).ilen = s.ilen := rfl
@[simp] theorem State.failed_olen (s : State) (st pos info : Lane) : (s.failed st pos info).olen = 0 := rfl
@[simp] theorem State.failed_icap (s : State) (st pos info : Lane) : (s.failed st pos info).icap = s.icap := rfl
@[simp] theorem State.failed_ocap (s : State) (st pos info : Lane) : (s.failed st pos info).ocap = s.ocap := rfl
@[simp] theorem State.failed_arg0 (s : State) (st pos info : Lane) : (s.failed st pos info).arg0 = s.arg0 := rfl
@[simp] theorem State.failed_arg1 (s : State) (st pos info : Lane) : (s.failed st pos info).arg1 = s.arg1 := rfl
@[simp] theorem State.failed_res0 (s : State) (st pos info : Lane) : (s.failed st pos info).res0 = 0 := rfl
@[simp] theorem State.failed_res1 (s : State) (st pos info : Lane) : (s.failed st pos info).res1 = 0 := rfl
@[simp] theorem State.failed_res2 (s : State) (st pos info : Lane) : (s.failed st pos info).res2 = 0 := rfl
@[simp] theorem State.failed_res3 (s : State) (st pos info : Lane) : (s.failed st pos info).res3 = 0 := rfl
@[simp] theorem State.failed_res4 (s : State) (st pos info : Lane) : (s.failed st pos info).res4 = 0 := rfl
@[simp] theorem State.failed_ibuf (s : State) (st pos info : Lane) : (s.failed st pos info).ibuf = s.ibuf := rfl
@[simp] theorem State.failed_obuf (s : State) (st pos info : Lane) : (s.failed st pos info).obuf = [] := rfl
@[simp] theorem State.failed_script (s : State) (st pos info : Lane) : (s.failed st pos info).script = s.script := rfl
@[simp] theorem State.failed_replies (s : State) (st pos info : Lane) : (s.failed st pos info).replies = s.replies := rfl

/-! ### answer: a host read -/

@[simp] theorem State.answer_cmd (s : State) (v : Lane) : (s.answer v).cmd = s.cmd := rfl
@[simp] theorem State.answer_status (s : State) (v : Lane) : (s.answer v).status = s.status := rfl
@[simp] theorem State.answer_errpos (s : State) (v : Lane) : (s.answer v).errpos = s.errpos := rfl
@[simp] theorem State.answer_errinfo (s : State) (v : Lane) : (s.answer v).errinfo = s.errinfo := rfl
@[simp] theorem State.answer_ilen (s : State) (v : Lane) : (s.answer v).ilen = s.ilen := rfl
@[simp] theorem State.answer_olen (s : State) (v : Lane) : (s.answer v).olen = s.olen := rfl
@[simp] theorem State.answer_icap (s : State) (v : Lane) : (s.answer v).icap = s.icap := rfl
@[simp] theorem State.answer_ocap (s : State) (v : Lane) : (s.answer v).ocap = s.ocap := rfl
@[simp] theorem State.answer_arg0 (s : State) (v : Lane) : (s.answer v).arg0 = s.arg0 := rfl
@[simp] theorem State.answer_arg1 (s : State) (v : Lane) : (s.answer v).arg1 = s.arg1 := rfl
@[simp] theorem State.answer_res0 (s : State) (v : Lane) : (s.answer v).res0 = s.res0 := rfl
@[simp] theorem State.answer_res1 (s : State) (v : Lane) : (s.answer v).res1 = s.res1 := rfl
@[simp] theorem State.answer_res2 (s : State) (v : Lane) : (s.answer v).res2 = s.res2 := rfl
@[simp] theorem State.answer_res3 (s : State) (v : Lane) : (s.answer v).res3 = s.res3 := rfl
@[simp] theorem State.answer_res4 (s : State) (v : Lane) : (s.answer v).res4 = s.res4 := rfl
@[simp] theorem State.answer_ibuf (s : State) (v : Lane) : (s.answer v).ibuf = s.ibuf := rfl
@[simp] theorem State.answer_obuf (s : State) (v : Lane) : (s.answer v).obuf = s.obuf := rfl
@[simp] theorem State.answer_script (s : State) (v : Lane) : (s.answer v).script = s.script := rfl
@[simp] theorem State.answer_replies (s : State) (v : Lane) : (s.answer v).replies = s.replies ++ [v] := rfl

/-! ### platformReset: R340 -/

@[simp] theorem State.platformReset_cmd (s : State) : (s.platformReset).cmd = 0 := rfl
@[simp] theorem State.platformReset_status (s : State) : (s.platformReset).status = 0 := rfl
@[simp] theorem State.platformReset_errpos (s : State) : (s.platformReset).errpos = 0 := rfl
@[simp] theorem State.platformReset_errinfo (s : State) : (s.platformReset).errinfo = 0 := rfl
@[simp] theorem State.platformReset_ilen (s : State) : (s.platformReset).ilen = 0 := rfl
@[simp] theorem State.platformReset_olen (s : State) : (s.platformReset).olen = 0 := rfl
@[simp] theorem State.platformReset_icap (s : State) : (s.platformReset).icap = s.icap := rfl
@[simp] theorem State.platformReset_ocap (s : State) : (s.platformReset).ocap = s.ocap := rfl
@[simp] theorem State.platformReset_arg0 (s : State) : (s.platformReset).arg0 = 0 := rfl
@[simp] theorem State.platformReset_arg1 (s : State) : (s.platformReset).arg1 = 0 := rfl
@[simp] theorem State.platformReset_res0 (s : State) : (s.platformReset).res0 = 0 := rfl
@[simp] theorem State.platformReset_res1 (s : State) : (s.platformReset).res1 = 0 := rfl
@[simp] theorem State.platformReset_res2 (s : State) : (s.platformReset).res2 = 0 := rfl
@[simp] theorem State.platformReset_res3 (s : State) : (s.platformReset).res3 = 0 := rfl
@[simp] theorem State.platformReset_res4 (s : State) : (s.platformReset).res4 = 0 := rfl
@[simp] theorem State.platformReset_ibuf (s : State) : (s.platformReset).ibuf = [] := rfl
@[simp] theorem State.platformReset_obuf (s : State) : (s.platformReset).obuf = [] := rfl
@[simp] theorem State.platformReset_script (s : State) : (s.platformReset).script = s.script := rfl
@[simp] theorem State.platformReset_replies (s : State) : (s.platformReset).replies = s.replies := rfl

/-! ### resetWith: the state after reset R340 -/

@[simp] theorem State.resetWith_cmd (icap ocap : Lane) : (State.resetWith icap ocap).cmd = 0 := rfl
@[simp] theorem State.resetWith_status (icap ocap : Lane) : (State.resetWith icap ocap).status = 0 := rfl
@[simp] theorem State.resetWith_errpos (icap ocap : Lane) : (State.resetWith icap ocap).errpos = 0 := rfl
@[simp] theorem State.resetWith_errinfo (icap ocap : Lane) : (State.resetWith icap ocap).errinfo = 0 := rfl
@[simp] theorem State.resetWith_ilen (icap ocap : Lane) : (State.resetWith icap ocap).ilen = 0 := rfl
@[simp] theorem State.resetWith_olen (icap ocap : Lane) : (State.resetWith icap ocap).olen = 0 := rfl
@[simp] theorem State.resetWith_icap (icap ocap : Lane) : (State.resetWith icap ocap).icap = icap := rfl
@[simp] theorem State.resetWith_ocap (icap ocap : Lane) : (State.resetWith icap ocap).ocap = ocap := rfl
@[simp] theorem State.resetWith_arg0 (icap ocap : Lane) : (State.resetWith icap ocap).arg0 = 0 := rfl
@[simp] theorem State.resetWith_arg1 (icap ocap : Lane) : (State.resetWith icap ocap).arg1 = 0 := rfl
@[simp] theorem State.resetWith_res0 (icap ocap : Lane) : (State.resetWith icap ocap).res0 = 0 := rfl
@[simp] theorem State.resetWith_res1 (icap ocap : Lane) : (State.resetWith icap ocap).res1 = 0 := rfl
@[simp] theorem State.resetWith_res2 (icap ocap : Lane) : (State.resetWith icap ocap).res2 = 0 := rfl
@[simp] theorem State.resetWith_res3 (icap ocap : Lane) : (State.resetWith icap ocap).res3 = 0 := rfl
@[simp] theorem State.resetWith_res4 (icap ocap : Lane) : (State.resetWith icap ocap).res4 = 0 := rfl
@[simp] theorem State.resetWith_ibuf (icap ocap : Lane) : (State.resetWith icap ocap).ibuf = [] := rfl
@[simp] theorem State.resetWith_obuf (icap ocap : Lane) : (State.resetWith icap ocap).obuf = [] := rfl
@[simp] theorem State.resetWith_script (icap ocap : Lane) : (State.resetWith icap ocap).script = [] := rfl
@[simp] theorem State.resetWith_replies (icap ocap : Lane) : (State.resetWith icap ocap).replies = [] := rfl

/-! ### setRegister: a host write of a register other than CMD (R21, R52) -/

@[simp] theorem State.setRegister_cmd (s : State) (i : Nat) (v : Lane) : (s.setRegister i v).cmd = s.cmd := by
  unfold State.setRegister
  split <;> rfl

@[simp] theorem State.setRegister_status (s : State) (i : Nat) (v : Lane) : (s.setRegister i v).status = s.status := by
  unfold State.setRegister
  split <;> rfl

@[simp] theorem State.setRegister_errpos (s : State) (i : Nat) (v : Lane) : (s.setRegister i v).errpos = s.errpos := by
  unfold State.setRegister
  split <;> rfl

@[simp] theorem State.setRegister_errinfo (s : State) (i : Nat) (v : Lane) : (s.setRegister i v).errinfo = s.errinfo := by
  unfold State.setRegister
  split <;> rfl

@[simp] theorem State.setRegister_olen (s : State) (i : Nat) (v : Lane) : (s.setRegister i v).olen = s.olen := by
  unfold State.setRegister
  split <;> rfl

@[simp] theorem State.setRegister_icap (s : State) (i : Nat) (v : Lane) : (s.setRegister i v).icap = s.icap := by
  unfold State.setRegister
  split <;> rfl

@[simp] theorem State.setRegister_ocap (s : State) (i : Nat) (v : Lane) : (s.setRegister i v).ocap = s.ocap := by
  unfold State.setRegister
  split <;> rfl

@[simp] theorem State.setRegister_res0 (s : State) (i : Nat) (v : Lane) : (s.setRegister i v).res0 = s.res0 := by
  unfold State.setRegister
  split <;> rfl

@[simp] theorem State.setRegister_res1 (s : State) (i : Nat) (v : Lane) : (s.setRegister i v).res1 = s.res1 := by
  unfold State.setRegister
  split <;> rfl

@[simp] theorem State.setRegister_res2 (s : State) (i : Nat) (v : Lane) : (s.setRegister i v).res2 = s.res2 := by
  unfold State.setRegister
  split <;> rfl

@[simp] theorem State.setRegister_res3 (s : State) (i : Nat) (v : Lane) : (s.setRegister i v).res3 = s.res3 := by
  unfold State.setRegister
  split <;> rfl

@[simp] theorem State.setRegister_res4 (s : State) (i : Nat) (v : Lane) : (s.setRegister i v).res4 = s.res4 := by
  unfold State.setRegister
  split <;> rfl

@[simp] theorem State.setRegister_ibuf (s : State) (i : Nat) (v : Lane) : (s.setRegister i v).ibuf = s.ibuf := by
  unfold State.setRegister
  split <;> rfl

@[simp] theorem State.setRegister_obuf (s : State) (i : Nat) (v : Lane) : (s.setRegister i v).obuf = s.obuf := by
  unfold State.setRegister
  split <;> rfl

@[simp] theorem State.setRegister_script (s : State) (i : Nat) (v : Lane) : (s.setRegister i v).script = s.script := by
  unfold State.setRegister
  split <;> rfl

@[simp] theorem State.setRegister_replies (s : State) (i : Nat) (v : Lane) : (s.setRegister i v).replies = s.replies := by
  unfold State.setRegister
  split <;> rfl

/-! ### writeIbuf: a host write of a lane (R24, R52) -/

@[simp] theorem State.writeIbuf_cmd (s : State) (i : Nat) (v : Lane) : (s.writeIbuf i v).cmd = s.cmd := by
  unfold State.writeIbuf
  split <;> rfl

@[simp] theorem State.writeIbuf_status (s : State) (i : Nat) (v : Lane) : (s.writeIbuf i v).status = s.status := by
  unfold State.writeIbuf
  split <;> rfl

@[simp] theorem State.writeIbuf_errpos (s : State) (i : Nat) (v : Lane) : (s.writeIbuf i v).errpos = s.errpos := by
  unfold State.writeIbuf
  split <;> rfl

@[simp] theorem State.writeIbuf_errinfo (s : State) (i : Nat) (v : Lane) : (s.writeIbuf i v).errinfo = s.errinfo := by
  unfold State.writeIbuf
  split <;> rfl

@[simp] theorem State.writeIbuf_ilen (s : State) (i : Nat) (v : Lane) : (s.writeIbuf i v).ilen = s.ilen := by
  unfold State.writeIbuf
  split <;> rfl

@[simp] theorem State.writeIbuf_olen (s : State) (i : Nat) (v : Lane) : (s.writeIbuf i v).olen = s.olen := by
  unfold State.writeIbuf
  split <;> rfl

@[simp] theorem State.writeIbuf_icap (s : State) (i : Nat) (v : Lane) : (s.writeIbuf i v).icap = s.icap := by
  unfold State.writeIbuf
  split <;> rfl

@[simp] theorem State.writeIbuf_ocap (s : State) (i : Nat) (v : Lane) : (s.writeIbuf i v).ocap = s.ocap := by
  unfold State.writeIbuf
  split <;> rfl

@[simp] theorem State.writeIbuf_arg0 (s : State) (i : Nat) (v : Lane) : (s.writeIbuf i v).arg0 = s.arg0 := by
  unfold State.writeIbuf
  split <;> rfl

@[simp] theorem State.writeIbuf_arg1 (s : State) (i : Nat) (v : Lane) : (s.writeIbuf i v).arg1 = s.arg1 := by
  unfold State.writeIbuf
  split <;> rfl

@[simp] theorem State.writeIbuf_res0 (s : State) (i : Nat) (v : Lane) : (s.writeIbuf i v).res0 = s.res0 := by
  unfold State.writeIbuf
  split <;> rfl

@[simp] theorem State.writeIbuf_res1 (s : State) (i : Nat) (v : Lane) : (s.writeIbuf i v).res1 = s.res1 := by
  unfold State.writeIbuf
  split <;> rfl

@[simp] theorem State.writeIbuf_res2 (s : State) (i : Nat) (v : Lane) : (s.writeIbuf i v).res2 = s.res2 := by
  unfold State.writeIbuf
  split <;> rfl

@[simp] theorem State.writeIbuf_res3 (s : State) (i : Nat) (v : Lane) : (s.writeIbuf i v).res3 = s.res3 := by
  unfold State.writeIbuf
  split <;> rfl

@[simp] theorem State.writeIbuf_res4 (s : State) (i : Nat) (v : Lane) : (s.writeIbuf i v).res4 = s.res4 := by
  unfold State.writeIbuf
  split <;> rfl

@[simp] theorem State.writeIbuf_obuf (s : State) (i : Nat) (v : Lane) : (s.writeIbuf i v).obuf = s.obuf := by
  unfold State.writeIbuf
  split <;> rfl

@[simp] theorem State.writeIbuf_script (s : State) (i : Nat) (v : Lane) : (s.writeIbuf i v).script = s.script := by
  unfold State.writeIbuf
  split <;> rfl

@[simp] theorem State.writeIbuf_replies (s : State) (i : Nat) (v : Lane) : (s.writeIbuf i v).replies = s.replies := by
  unfold State.writeIbuf
  split <;> rfl

end Sys2Proof.Machine
end

