-- ==== Sys2Proof/Laws/Ops.lean ====
section
/-! SUPPORT. One lemma for each shared operation that says once everything it can do: the command wrapper (R31, R303,
R306), the operand forms (R17, R27, R131, R132), what a host collects of an output (R51), and the host accesses (R52). -/

namespace Sys2Proof.Machine

/-! ### STATUS -/

/-- What STATUS reads after an error (R303). -/
def ErrorCode.report : ErrorCode → Lane
  | .format => 0x13
  | .range => 0x23
  | .badchar => 0x33
  | .illegal => 0x43
  | .capacity => 0x53

theorem and_one_cases (x : Lane) : x &&& 1 = 0 ∨ x &&& 1 = 1 := by
  have h : (x &&& 1).toNat = x.toNat % 2 := by simp [BitVec.toNat_and, Nat.and_one_is_mod]
  rcases Nat.mod_two_eq_zero_or_one x.toNat with h0 | h1
  · exact .inl (BitVec.eq_of_toNat_eq (by rw [h, h0]; rfl))
  · exact .inr (BitVec.eq_of_toNat_eq (by rw [h, h1]; rfl))

/-- After step 9 STATUS holds the report of the error, whatever it held before (R29, R303). -/
@[simp] theorem statusDone_statusError (e : ErrorCode) (st : Lane) :
    statusDone (statusError e (statusCleared st)) = e.report := by
  unfold statusDone statusError statusCleared
  rcases and_one_cases st with h | h <;> rw [h] <;> cases e <;> rfl

/-- After step 9 of a command without error STATUS reads 0x01 (R303). -/
@[simp] theorem statusDone_statusCleared (st : Lane) : statusDone (statusCleared st) = 0x01 := by
  unfold statusDone statusCleared
  rcases and_one_cases st with h | h <;> rw [h] <;> rfl

/-! ### The command wrapper -/

/-- The error write after step 2, field by field (R303). -/
theorem State.clearOutputs_fail (s : State) (e : OpError) :
    s.clearOutputs.fail e = s.failed e.code.report (BitVec.ofNat 64 e.pos) (BitVec.ofNat 64 e.info) := by
  simp only [State.clearOutputs, State.fail, State.finish, State.failed, statusDone_statusError]

/-- Steps 8 and 9 after step 2, field by field. -/
theorem State.clearOutputs_deliver (s : State) (r : OpResult) :
    s.clearOutputs.deliver r = s.completed r.out r.r0 r.r1 r.r2 r.r3 r.r4 := by
  simp only [State.clearOutputs, State.deliver, State.finish, State.completed, statusDone_statusCleared]

/-- An illegal command word leaves E_ILLEGAL (R305). -/
theorem State.illegalCommand_eq (s : State) (c : Lane) : s.illegalCommand c = s.failed 0x43 0 c := by
  simp [State.illegalCommand, State.clearOutputs_fail, ErrorCode.report]

/-- Everything a legal command can do: E_CAPACITY for the input, the op's own error, E_CAPACITY for the output, or the
op's results, in that order (R31, R310). -/
theorem State.runOp_eq (s : State) (op : List Lane → Except OpError OpResult) :
    s.runOp op =
      if s.icap.toNat < s.ilen.toNat then s.failed 0x53 s.icap 0
      else match op s.input with
        | .error e => s.failed e.code.report (BitVec.ofNat 64 e.pos) (BitVec.ofNat 64 e.info)
        | .ok r => if s.ocap.toNat < r.out.length then s.failed 0x53 s.ocap 1
            else s.completed r.out r.r0 r.r1 r.r2 r.r3 r.r4 := by
  unfold State.runOp
  split
  · simp [State.clearOutputs_fail, ErrorCode.report]
  · cases op s.input with
    | error e => exact State.clearOutputs_fail s e
    | ok r =>
      by_cases h : s.ocap.toNat < r.out.length
      · simp [State.conclude, h, State.clearOutputs_fail, ErrorCode.report]
      · simp [State.conclude, h, State.clearOutputs_deliver]

/-- A ready command whose op gives an output that fits. -/
theorem State.runOp_ok {s : State} {op : List Lane → Except OpError OpResult} {r : OpResult} (hr : s.ready)
    (h : op s.input = .ok r) (hfit : r.out.length ≤ s.ocap.toNat) :
    s.runOp op = s.completed r.out r.r0 r.r1 r.r2 r.r3 r.r4 := by
  rw [State.runOp_eq, if_neg (Nat.not_lt.2 hr), h]
  exact if_neg (Nat.not_lt.2 hfit)

/-- A ready command whose op raises. -/
theorem State.runOp_error {s : State} {op : List Lane → Except OpError OpResult} {e : OpError} (hr : s.ready)
    (h : op s.input = .error e) :
    s.runOp op = s.failed e.code.report (BitVec.ofNat 64 e.pos) (BitVec.ofNat 64 e.info) := by
  rw [State.runOp_eq, if_neg (Nat.not_lt.2 hr), h]

/-- The two ways a command step past the decoder can end: with one of the error reports, or with results that fit. -/
theorem State.runOp_cases (s : State) (op : List Lane → Except OpError OpResult) :
    (∃ st pos info : Lane, st ∈ [(0x13 : Lane), 0x23, 0x33, 0x43, 0x53] ∧ s.runOp op = s.failed st pos info) ∨
    (∃ (out : List Lane) (r0 r1 r2 r3 r4 : Lane), out.length ≤ s.ocap.toNat ∧
      s.runOp op = s.completed out r0 r1 r2 r3 r4) := by
  rw [State.runOp_eq]
  split
  · exact .inl ⟨_, _, _, by simp, rfl⟩
  · cases op s.input with
    | error e =>
      refine .inl ⟨_, _, _, ?_, rfl⟩
      cases e.code <;> simp [ErrorCode.report]
    | ok r =>
      by_cases h : s.ocap.toNat < r.out.length
      · exact .inl ⟨_, _, _, by simp, if_pos h⟩
      · exact .inr ⟨_, _, _, _, _, _, Nat.not_lt.1 h, if_neg h⟩

/-- What a command produces depends on the input sequence and the capacities only, beside the op itself (R10). -/
theorem State.runOp_congr {s u : State} (op : List Lane → Except OpError OpResult) (hlen : s.ilen = u.ilen)
    (hicap : s.icap = u.icap) (hocap : s.ocap = u.ocap) (hin : s.input = u.input) :
    (∃ st pos info : Lane, s.runOp op = s.failed st pos info ∧ u.runOp op = u.failed st pos info) ∨
    (∃ (out : List Lane) (r0 r1 r2 r3 r4 : Lane), s.runOp op = s.completed out r0 r1 r2 r3 r4 ∧
      u.runOp op = u.completed out r0 r1 r2 r3 r4) := by
  rw [State.runOp_eq, State.runOp_eq, hlen, hicap, hocap, hin]
  split
  · exact .inl ⟨_, _, _, rfl, rfl⟩
  · cases op u.input with
    | error e => exact .inl ⟨_, _, _, rfl, rfl⟩
    | ok r =>
      by_cases h : u.ocap.toNat < r.out.length
      · exact .inl ⟨_, _, _, if_pos h, if_pos h⟩
      · exact .inr ⟨_, _, _, _, _, _, if_neg h, if_neg h⟩

/-- What an instruction computes from its input sequence and the two argument registers, without the wrapper. -/
def opOf (i : Instr) (arg0 arg1 : Lane) (input : List Lane) : Except OpError OpResult :=
  match i with
  | .adler32 => .ok { r0 := wordLane (adler32 (byteInput input)) }
  | .crc32 => .ok { r0 := wordLane (crc32 (byteInput input)) }
  | .b64enc => outputs ((b64Encode ((byteInput input).map BitVec.toNat)).map byteLane)
  | .b64dec => outputs ((b64Decode (byteInput input)).map byteLane)
  | .vlqenc => outputs ((input.flatMap fun v => vlqEncode (signedPort v)).map byteLane)
  | .vlqdec => raisingOutputs (vlqDecode (byteInput input))
  | .b2u8 le => outputs (bytesToInts 1 false le (byteInput input))
  | .b2i8 le => outputs (bytesToInts 1 true le (byteInput input))
  | .b2u16 le => outputs (bytesToInts 2 false le (byteInput input))
  | .b2i16 le => outputs (bytesToInts 2 true le (byteInput input))
  | .b2u32 le => outputs (bytesToInts 4 false le (byteInput input))
  | .b2i32 le => outputs (bytesToInts 4 true le (byteInput input))
  | .b2u64 le => outputs (bytesToInts 8 false le (byteInput input))
  | .b2i64 le => outputs (bytesToInts 8 true le (byteInput input))
  | .u8tob le => outputs ((intsToBytes 1 le input).map byteLane)
  | .i8tob le => outputs ((intsToBytes 1 le input).map byteLane)
  | .u16tob le => outputs ((intsToBytes 2 le input).map byteLane)
  | .i16tob le => outputs ((intsToBytes 2 le input).map byteLane)
  | .u32tob le => outputs ((intsToBytes 4 le input).map byteLane)
  | .i32tob le => outputs ((intsToBytes 4 le input).map byteLane)
  | .u64tob le => outputs ((intsToBytes 8 le input).map byteLane)
  | .i64tob le => outputs ((intsToBytes 8 le input).map byteLane)
  | .b2f32 le => outputs ((completeGroups 4 (byteInput input)).map fun g => widen32 (BitVec.ofNat 32 (assemble le g)))
  | .b2f64 le =>
    outputs ((completeGroups 8 (byteInput input)).map fun g => canonical64 (BitVec.ofNat 64 (assemble le g)))
  | .f32tob le => outputs ((input.flatMap fun v => bytesOf 4 le (narrow64 v).toNat).map byteLane)
  | .f64tob le => outputs ((input.flatMap fun v => bytesOf 8 le (canonical64 v).toNat).map byteLane)
  | .sha1 => .ok (sha1Format (sha1Digest (byteInput input)))
  | .utf8B2c strict overlong surr bom => codepointOutputs (utf8Decode strict overlong surr bom (byteInput input))
  | .utf8C2b strict surr bom =>
    encodedOutputs (if bom then utf8Mark else []) (encodeFrom enc8 strict surr 0 input)
  | .utf16B2c le strict surr bom => codepointOutputs (utf16Decode le strict surr bom (byteInput input))
  | .utf16C2b le strict surr bom =>
    encodedOutputs (if bom then markOf 2 le else []) (encodeFrom (enc16 le) strict surr 0 input)
  | .utf32B2c le strict surr bom => codepointOutputs (utf32Decode le strict surr bom (byteInput input))
  | .utf32C2b le strict surr bom =>
    encodedOutputs (if bom then markOf 4 le else []) (encodeFrom (enc32 le) strict surr 0 input)
  | .pngrgba => outputs ((pngStream (pixelOf arg0)).map byteLane)
  | .wsenc nomask hasmask =>
    raisingOutputs (match wsEncode nomask hasmask arg0 arg1 (byteInput input) with
      | .ok bs => .ok (bs.map byteLane)
      | .error e => .error e)
  | .wsdec nomask => wsDecode nomask (byteInput input)

/-- Every meaning is the wrapper around its op. -/
theorem exec_eq (i : Instr) (s : State) : exec i s = .next (s.runOp (opOf i s.arg0 s.arg1)) := by
  cases i <;> rfl

/-- The two ways a CMD write can end, for a legal command word or not (R31, R305). -/
theorem commandWrite_cases (c : Lane) (s : State) :
    (∃ st pos info : Lane, st ∈ [(0x13 : Lane), 0x23, 0x33, 0x43, 0x53] ∧
      commandWrite c s = .next ({ s with cmd := c }.failed st pos info)) ∨
    (∃ (out : List Lane) (r0 r1 r2 r3 r4 : Lane), out.length ≤ s.ocap.toNat ∧
      commandWrite c s = .next ({ s with cmd := c }.completed out r0 r1 r2 r3 r4)) := by
  unfold commandWrite
  split
  · rw [exec_eq]
    rcases State.runOp_cases { s with cmd := c } (opOf _ s.arg0 s.arg1) with
      ⟨st, pos, info, hst, h⟩ | ⟨out, r0, r1, r2, r3, r4, hlen, h⟩
    · exact .inl ⟨st, pos, info, hst, congrArg _ h⟩
    · exact .inr ⟨out, r0, r1, r2, r3, r4, hlen, congrArg _ h⟩
  · rw [State.illegalCommand_eq]
    exact .inl ⟨_, _, _, by simp, rfl⟩

/-! ### Loops that may raise -/

@[simp] theorem prependOk_ok {α : Type} (xs rest : List α) : prependOk xs (.ok rest) = .ok (xs ++ rest) := rfl

@[simp] theorem prependOk_error {α : Type} (xs : List α) (e : OpError) :
    prependOk xs (.error e : Except OpError (List α)) = .error e := rfl

theorem prependOk_eq_ok {α : Type} {xs out : List α} {r : Except OpError (List α)} :
    prependOk xs r = .ok out ↔ ∃ rest, r = .ok rest ∧ out = xs ++ rest := by
  cases r <;> simp [prependOk, eq_comm]

theorem prependOk_eq_error {α : Type} {xs : List α} {e : OpError} {r : Except OpError (List α)} :
    prependOk xs r = .error e ↔ r = .error e := by
  cases r <;> simp [prependOk]

/-- VLQDEC's loop raises only E_FORMAT, E_RANGE and E_BADCHAR (R117). -/
theorem vlqDecodeFrom_error : ∀ (bs : List Byte) (i acc sh : Nat) (st : Option Nat) (e : OpError),
    vlqDecodeFrom i acc sh st bs = .error e → e.code = .format ∨ e.code = .range ∨ e.code = .badchar
  | [], i, acc, sh, st, e, h => by
    cases st <;> simp [vlqDecodeFrom] at h
    subst h; simp
  | c :: t, i, acc, sh, st, e, h => by
    rw [vlqDecodeFrom] at h
    split at h
    · simp at h; subst h; simp
    · simp only at h
      split at h
      · exact vlqDecodeFrom_error t _ _ _ _ e h
      · split at h
        · simp at h; subst h; simp
        · rw [prependOk_eq_error] at h
          exact vlqDecodeFrom_error t _ _ _ _ e h

/-- The bytes-to-codepoints loop raises only in strict mode, and only E_FORMAT (R201). -/
theorem decodeFrom_error (u : Byte → List Byte → CodeUnit) (strict : Bool) : ∀ (bs : List Byte) (i k : Nat) (e : OpError),
    decodeFrom u strict i k bs = .error e → strict = true ∧ e.code = .format
  | [], i, k, e, h => by simp [decodeFrom] at h
  | b :: t, i, k + 1, e, h => by
    rw [decodeFrom] at h
    exact decodeFrom_error u strict t _ _ e h
  | b :: t, i, 0, e, h => by
    rw [decodeFrom] at h
    split at h
    · rw [prependOk_eq_error] at h
      exact decodeFrom_error u strict t _ _ e h
    · split at h
      · rename_i hs; simp at h; subst h; exact ⟨hs, rfl⟩
      · rw [prependOk_eq_error] at h
        exact decodeFrom_error u strict t _ _ e h

/-- The codepoints-to-bytes loop raises E_RANGE, or in strict mode without ALLOW_SURR E_FORMAT (R201 (g), R206). -/
theorem encodeFrom_error (put : Nat → List Byte) (strict surr : Bool) : ∀ (vs : List Lane) (k : Nat) (e : OpError),
    encodeFrom put strict surr k vs = .error e → e.code = .range ∨ (strict = true ∧ surr = false ∧ e.code = .format)
  | [], k, e, h => by simp [encodeFrom] at h
  | v :: t, k, e, h => by
    rw [encodeFrom] at h
    split at h
    · simp at h; subst h; simp
    · split at h
      · rename_i hs
        split at h
        · rename_i hst
          simp at h; subst h; simp at hs; simp [hs, hst]
        · rw [prependOk_eq_error] at h
          exact encodeFrom_error put strict surr t _ e h
      · rw [prependOk_eq_error] at h
        exact encodeFrom_error put strict surr t _ e h

theorem codepointOutputs_error {r : Except OpError (List Nat)} {e : OpError} :
    codepointOutputs r = .error e ↔ r = .error e := by
  cases r <;> simp [codepointOutputs, outputs]

theorem encodedOutputs_error {m : List Byte} {r : Except OpError (List Byte)} {e : OpError} :
    encodedOutputs m r = .error e ↔ r = .error e := by
  cases r <;> simp [encodedOutputs, outputs]

theorem raisingOutputs_error {r : Except OpError (List Lane)} {e : OpError} :
    raisingOutputs r = .error e ↔ r = .error e := by
  cases r <;> simp [raisingOutputs, outputs]

/-- WSDEC raises only E_FORMAT (R264). -/
theorem wsDecode_error {nomask : Bool} {bs : List Byte} {e : OpError} (h : wsDecode nomask bs = .error e) : e.code = .format := by
  unfold wsDecode at h
  split at h
  · simp only at h
    split at h
    · simp at h; subst h; rfl
    · simp at h
  · simp at h; subst h; rfl

/-- Passing over bytes that a unit or a mark has taken up. -/
theorem decodeFrom_skip (unitAt : Byte → List Byte → CodeUnit) (strict : Bool) : ∀ (i k : Nat) (pre rest : List Byte),
    pre.length = k → decodeFrom unitAt strict i k (pre ++ rest) = decodeFrom unitAt strict (i + k) 0 rest
  | i, 0, [], rest, _ => rfl
  | i, k + 1, b :: pre, rest, h => by
    have ih := decodeFrom_skip unitAt strict (i + 1) k pre rest (by simpa using h)
    rw [List.cons_append, decodeFrom, ih]
    congr 1
    omega

/-! ### Input, ports and output -/

@[simp] theorem State.input_length (s : State) : s.input.length = s.ilen.toNat := by simp [State.input]

@[simp] theorem State.input_getElem (s : State) (k : Nat) (h : k < s.input.length) :
    s.input[k] = s.ibuf.read k := by simp [State.input]

theorem byteInput_toNat (input : List Lane) : (byteInput input).map BitVec.toNat = input.map fun v => v.toNat % 256 := by
  simp [byteInput, bytePort, BitVec.toNat_setWidth]

@[simp] theorem byteInput_length (input : List Lane) : (byteInput input).length = input.length := by simp [byteInput]

/-- The byte port as numbers: `b[0..n-1]` (R17, R27). -/
theorem State.byteValues_eq (s : State) : s.byteValues = (byteInput s.input).map BitVec.toNat := by
  rw [byteInput_toNat, State.byteValues, State.input, List.map_map]
  exact List.map_congr_left fun k hk => by simp [State.byteAt, List.mem_range.1 hk]

theorem byteLane_toNat (b : Byte) : (byteLane b).toNat = b.toNat := by
  have := b.isLt
  rw [byteLane, BitVec.toNat_setWidth]
  omega

theorem byteLane_eq_ofNat (b : Byte) : byteLane b = BitVec.ofNat 64 b.toNat :=
  BitVec.eq_of_toNat_eq (by
    rw [byteLane_toNat, BitVec.toNat_ofNat, Nat.mod_eq_of_lt (Nat.lt_trans b.isLt (by decide : 2 ^ 8 < 2 ^ 64))])

/-- What the host collects after a command whose output fits is that output (R51, R80). -/
theorem State.completed_output (s : State) (out : List Lane) (r0 r1 r2 r3 r4 : Lane) (h : out.length ≤ s.ocap.toNat) :
    (s.completed out r0 r1 r2 r3 r4).output = out := by
  have hlt : out.length < 2 ^ 64 := Nat.lt_of_le_of_lt h s.ocap.isLt
  apply List.ext_getElem
  · simpa [State.output] using hlt
  · intro k h1 h2
    simp [State.output, h2]

/-! ### Groups of bytes -/

@[simp] theorem completeGroups_length (w : Nat) (b : List Byte) : (completeGroups w b).length = b.length / w := by
  simp [completeGroups]

theorem completeGroups_getElem (w : Nat) (b : List Byte) (k : Nat) (h : k < (completeGroups w b).length) :
    (completeGroups w b)[k] = (b.drop (k * w)).take w := by
  simp [completeGroups]

@[simp] theorem bytesLE_length (w v : Nat) : (bytesLE w v).length = w := by simp [bytesLE]

@[simp] theorem bytesOf_length (w : Nat) (le : Bool) (v : Nat) : (bytesOf w le v).length = w := by
  unfold bytesOf
  split <;> simp

theorem foldl_shift_or (g : List Byte) : ∀ acc : Nat,
    g.foldl (fun acc b => acc <<< 8 ||| b.toNat) acc = acc * 256 ^ g.length + assembleBE g := by
  induction g with
  | nil => simp [assembleBE]
  | cons b t ih =>
    intro acc
    have hb : acc <<< 8 ||| b.toNat = acc * 256 + b.toNat := by
      rw [Nat.shiftLeft_eq, Nat.mul_comm, ← Nat.two_pow_add_eq_or_of_lt b.isLt, Nat.mul_comm]
    have h0 : (0 : Nat) <<< 8 ||| b.toNat = b.toNat := by simp
    rw [assembleBE, List.foldl_cons, List.foldl_cons, ih, ih, hb, h0, List.length_cons, Nat.pow_succ]
    ring

/-- The first byte is the most significant (R131). -/
theorem assembleBE_cons (b : Byte) (t : List Byte) : assembleBE (b :: t) = b.toNat * 256 ^ t.length + assembleBE t := by
  rw [assembleBE, List.foldl_cons, foldl_shift_or]
  simp

theorem assembleBE_append (g h : List Byte) : assembleBE (g ++ h) = assembleBE g * 256 ^ h.length + assembleBE h := by
  rw [assembleBE, List.foldl_append, foldl_shift_or]
  rfl

/-- A group of `w` bytes is a number of `8 * w` bits. -/
theorem assembleBE_lt (g : List Byte) : assembleBE g < 256 ^ g.length := by
  induction g with
  | nil => simp [assembleBE]
  | cons b t ih =>
    rw [assembleBE_cons, List.length_cons, Nat.pow_succ]
    have := b.isLt
    nlinarith [Nat.pos_of_ne_zero (pow_ne_zero t.length (by decide : (256 : Nat) ≠ 0))]

theorem assemble_lt (le : Bool) (g : List Byte) : assemble le g < 256 ^ g.length := by
  unfold assemble
  split
  · simpa using assembleBE_lt g.reverse
  · exact assembleBE_lt g

/-! ### Host accesses -/

@[simp] theorem State.readIbuf_lt {s : State} {i : Nat} (h : i < s.icap.toNat) : s.readIbuf i = s.ibuf.read i :=
  if_pos h

@[simp] theorem State.readIbuf_ge {s : State} {i : Nat} (h : s.icap.toNat ≤ i) : s.readIbuf i = 0 :=
  if_neg (Nat.not_lt.2 h)

@[simp] theorem State.readObuf_lt {s : State} {i : Nat} (h : i < s.ocap.toNat) : s.readObuf i = s.obuf.read i :=
  if_pos h

@[simp] theorem State.readObuf_ge {s : State} {i : Nat} (h : s.ocap.toNat ≤ i) : s.readObuf i = 0 :=
  if_neg (Nat.not_lt.2 h)

/-- What a primitive of R52 can do: run a command on a CMD write, write another register or an IBUF lane, or answer a read.
A write to OBUF is none of them and has no next state. -/
theorem indexedAccess_cases {sp : Space} {i : Nat} {data : Option Lane} {s t : State}
    (h : indexedAccess sp i data s = .next t) :
    (∃ c, sp = .registers ∧ i = 0 ∧ data = some c ∧ commandWrite c s = .next t) ∨
    (∃ v, sp = .registers ∧ i ≠ 0 ∧ data = some v ∧ t = s.setRegister i v) ∨
    (∃ v, sp = .ibuf ∧ data = some v ∧ t = s.writeIbuf i v) ∨ (∃ v, data = none ∧ t = s.answer v) := by
  cases sp <;> cases data <;> simp only [indexedAccess, writeRegister] at h
  case registers.some c =>
    split at h
    · exact .inl ⟨c, rfl, ‹_›, rfl, h⟩
    · cases h
      exact .inr (.inl ⟨c, rfl, ‹_›, rfl, rfl⟩)
  case ibuf.some v =>
    cases h
    exact .inr (.inr (.inl ⟨v, rfl, rfl, rfl⟩))
  all_goals cases h
  all_goals exact .inr (.inr (.inr ⟨_, rfl, rfl⟩))

/-- What a host access that answers a next state can do: run a command if it writes CMD, else write another register or an
IBUF lane, or answer a read. -/
theorem hostAccess_cases {a : HostAccess} {s t : State} (h : hostAccess a s = .next t) :
    (∃ c, a.writesCmd = true ∧ commandWrite c s = .next t) ∨
    (a.writesCmd = false ∧ ((∃ i v, i ≠ 0 ∧ t = s.setRegister i v) ∨ (∃ i v, t = s.writeIbuf i v) ∨
      ∃ v, t = s.answer v)) := by
  cases a with
  | bus q =>
    simp only [hostAccess, busAccess] at h
    cases hi : busIndex q <;> rw [hi] at h
    · cases h
    · rcases indexedAccess_cases h with ⟨c, hs, rfl, hd, hc⟩ | ⟨v, hs, h0, hd, e⟩ | ⟨v, hs, hd, e⟩ | ⟨v, hd, e⟩
      · exact .inl ⟨c, by simp [HostAccess.writesCmd, hs, hd, hi], hc⟩
      · exact .inr ⟨by simp [HostAccess.writesCmd, hi, h0], .inl ⟨_, v, h0, e⟩⟩
      · exact .inr ⟨by simp [HostAccess.writesCmd, hs], .inr (.inl ⟨_, v, e⟩)⟩
      · exact .inr ⟨by simp [HostAccess.writesCmd, hd], .inr (.inr ⟨v, e⟩)⟩
  | writeReg i v =>
    simp only [hostAccess] at h
    rcases indexedAccess_cases h with ⟨c, -, rfl, -, hc⟩ | ⟨w, -, h0, -, e⟩ | ⟨_, hs, _⟩ | ⟨_, hd, _⟩
    · exact .inl ⟨c, rfl, hc⟩
    · exact .inr ⟨by simp [HostAccess.writesCmd, h0], .inl ⟨i, w, h0, e⟩⟩
    · cases hs
    · cases hd
  | writeObuf i v => cases h
  | writeIbuf i v =>
    cases h
    exact .inr ⟨rfl, .inr (.inl ⟨i, v, rfl⟩)⟩
  | _ =>
    cases h
    exact .inr ⟨rfl, .inr (.inr ⟨_, rfl⟩)⟩

/-! ### Well-formed text -/

/-- The minimal forms of carried codepoints are well-formed UTF-8 under either setting of ALLOW_OVERLONG. -/
theorem utf8Text_encodedText {overlong surr : Bool} {cps : List Nat} (h : cps.all (isCarried surr) = true) :
    Utf8Text overlong surr cps (encodedText utf8Form cps) := by
  refine ⟨cps.map utf8Size, by simp, h, ?_, ?_⟩
  · intro q hq
    rw [List.zip_map_left] at hq
    obtain ⟨p, hp, rfl⟩ := List.mem_map.1 hq
    have e : p.1 = p.2 := by
      obtain ⟨k, hk, rfl⟩ := List.getElem_of_mem hp
      simp
    refine ⟨by simp [Prod.map, e], ?_, fun _ => by simp [Prod.map, e]⟩
    simp only [Prod.map, utf8Size]
    split_ifs <;> decide
  · rw [List.zip_map_left]
    induction cps with
    | nil => rfl
    | cons c t ih =>
      have ht : t.all (isCarried surr) = true := by
        rw [List.all_cons, Bool.and_eq_true] at h
        exact h.2
      simpa [encodedText, utf8Form] using ih ht

end Sys2Proof.Machine
end

