-- ==== Sys2Proof/Laws/PerInstr.lean ====
section
/-! SUPPORT. The family `EncodesToLegalWord`, one lemma per constructor of `Instr`: the command word that the encoder writes
is a legal command word by the three checks of R76, for every setting of the instruction's flags. -/

namespace Sys2Proof.Laws.EncodesToLegalWord

/-- The encoding of `i` is a legal command word (R76). -/
def Statement (i : Instr) : Prop := legalWord (encode i) = true

theorem adler32 : Statement .adler32 := rfl

theorem crc32 : Statement .crc32 := rfl

theorem b64enc : Statement .b64enc := rfl

theorem b64dec : Statement .b64dec := rfl

theorem vlqenc : Statement .vlqenc := rfl

theorem vlqdec : Statement .vlqdec := rfl

theorem b2u8 (le : Bool) : Statement (.b2u8 le) := by
  cases le <;> rfl

theorem b2i8 (le : Bool) : Statement (.b2i8 le) := by
  cases le <;> rfl

theorem b2u16 (le : Bool) : Statement (.b2u16 le) := by
  cases le <;> rfl

theorem b2i16 (le : Bool) : Statement (.b2i16 le) := by
  cases le <;> rfl

theorem b2u32 (le : Bool) : Statement (.b2u32 le) := by
  cases le <;> rfl

theorem b2i32 (le : Bool) : Statement (.b2i32 le) := by
  cases le <;> rfl

theorem b2u64 (le : Bool) : Statement (.b2u64 le) := by
  cases le <;> rfl

theorem b2i64 (le : Bool) : Statement (.b2i64 le) := by
  cases le <;> rfl

theorem u8tob (le : Bool) : Statement (.u8tob le) := by
  cases le <;> rfl

theorem i8tob (le : Bool) : Statement (.i8tob le) := by
  cases le <;> rfl

theorem u16tob (le : Bool) : Statement (.u16tob le) := by
  cases le <;> rfl

theorem i16tob (le : Bool) : Statement (.i16tob le) := by
  cases le <;> rfl

theorem u32tob (le : Bool) : Statement (.u32tob le) := by
  cases le <;> rfl

theorem i32tob (le : Bool) : Statement (.i32tob le) := by
  cases le <;> rfl

theorem u64tob (le : Bool) : Statement (.u64tob le) := by
  cases le <;> rfl

theorem i64tob (le : Bool) : Statement (.i64tob le) := by
  cases le <;> rfl

theorem b2f32 (le : Bool) : Statement (.b2f32 le) := by
  cases le <;> rfl

theorem b2f64 (le : Bool) : Statement (.b2f64 le) := by
  cases le <;> rfl

theorem f32tob (le : Bool) : Statement (.f32tob le) := by
  cases le <;> rfl

theorem f64tob (le : Bool) : Statement (.f64tob le) := by
  cases le <;> rfl

theorem sha1 : Statement .sha1 := rfl

theorem utf8B2c (strict overlong surr bom : Bool) : Statement (.utf8B2c strict overlong surr bom) := by
  cases strict <;> cases overlong <;> cases surr <;> cases bom <;> rfl

theorem utf8C2b (strict surr bom : Bool) : Statement (.utf8C2b strict surr bom) := by
  cases strict <;> cases surr <;> cases bom <;> rfl

theorem utf16B2c (le strict surr bom : Bool) : Statement (.utf16B2c le strict surr bom) := by
  cases le <;> cases strict <;> cases surr <;> cases bom <;> rfl

theorem utf16C2b (le strict surr bom : Bool) : Statement (.utf16C2b le strict surr bom) := by
  cases le <;> cases strict <;> cases surr <;> cases bom <;> rfl

theorem utf32B2c (le strict surr bom : Bool) : Statement (.utf32B2c le strict surr bom) := by
  cases le <;> cases strict <;> cases surr <;> cases bom <;> rfl

theorem utf32C2b (le strict surr bom : Bool) : Statement (.utf32C2b le strict surr bom) := by
  cases le <;> cases strict <;> cases surr <;> cases bom <;> rfl

theorem pngrgba : Statement .pngrgba := rfl

theorem wsenc (nomask hasmask : Bool) : Statement (.wsenc nomask hasmask) := by
  cases nomask <;> cases hasmask <;> rfl

theorem wsdec (nomask : Bool) : Statement (.wsdec nomask) := by
  cases nomask <;> rfl

end Sys2Proof.Laws.EncodesToLegalWord
end

