-- ==== Sys2Proof/Tests/Slice0.lean ====
section
/-! SUPPORT. Our own tests. First the smoke test of the legality checks of R76, then one written-out word for every
constructor, then single steps with results that stand in spec/ (the row is named in each comment), then a witness for
the hypotheses of every statement that has some. -/

namespace Sys2Proof.Tests

open Sys2Proof.Machine

/-- A context with 256 lanes in each buffer whose input sequence is the given numbers. -/
def holding (input : List Nat) (arg0 arg1 : Lane := 0) : State :=
  { State.resetWith 256 256 with
    ibuf := Memory.ofList (input.map (BitVec.ofNat 64)), ilen := BitVec.ofNat 64 input.length, arg0 := arg0, arg1 := arg1 }

/-- The state after one step that runs the command word `c`. -/
def run (c : Lane) (s : State) : State :=
  match step (s.withCommand c) with
  | .next t => t
  | .fault _ => State.reset
  | .refused _ => State.reset

/-- Whether the command ended without error and its output sequence is the given numbers. -/
def gives (t : State) (out : List Nat) : Bool := t.status == 0x01 && t.output == out.map (BitVec.ofNat 64)

/-- Whether the command ended with the given error report. -/
def fails (t : State) (st pos info : Lane) : Bool :=
  t.status == st && t.errpos == pos && t.errinfo == info && t.olen == 0 && t.obuf == []

/-! ### Legality (R76): one ill-formed word for each check, refused -/

theorem test_reserved_bit_refused : reservedBitsClear 0x8010 = false ∧ legalWord 0x8010 = false := by decide
theorem test_top_bit_refused : legalWord 0x8000000000000010 = false := by decide
theorem test_undefined_op_refused : opDefined 0x12 = false ∧ legalWord 0x12 = false := by decide
theorem test_op_zero_refused : legalWord 0 = false := by decide
theorem test_flag_on_crc32_refused : flagsAccepted 0x111 = false ∧ legalWord 0x111 = false := by decide
theorem test_le_on_utf8_refused : flagsAccepted 0x160 = false ∧ legalWord 0x160 = false := by decide
theorem test_hasmask_on_wsdec_refused : flagsAccepted 0x4081 = false := by decide
theorem test_useless_flags_are_legal : legalWord 0x130 = true ∧ legalWord 0x2080 = true := by decide
theorem test_refusals_by_name : decode 0x8010 = .error .reservedBits ∧ decode 0x12 = .error .reservedOp ∧
    decode 0x110 = .error .flagNotAccepted := ⟨rfl, rfl, rfl⟩

/-! ### Decoding: a word written out from R71 to R75 for every constructor -/

theorem test_decode_checksum :
    decode 0x10 = .ok .adler32 ∧ decode 0x11 = .ok .crc32 :=
  ⟨rfl, rfl⟩

theorem test_decode_base64 :
    decode 0x20 = .ok .b64enc ∧ decode 0x21 = .ok .b64dec ∧ decode 0x22 = .ok .vlqenc ∧
    decode 0x23 = .ok .vlqdec :=
  ⟨rfl, rfl, rfl, rfl⟩

theorem test_decode_bytes_to_integers :
    decode 0x130 = .ok (.b2u8 true) ∧ decode 0x131 = .ok (.b2i8 true) ∧ decode 0x132 = .ok (.b2u16 true) ∧
    decode 0x133 = .ok (.b2i16 true) ∧ decode 0x134 = .ok (.b2u32 true) ∧ decode 0x135 = .ok (.b2i32 true) ∧
    decode 0x136 = .ok (.b2u64 true) ∧ decode 0x137 = .ok (.b2i64 true) :=
  ⟨rfl, rfl, rfl, rfl, rfl, rfl, rfl, rfl⟩

theorem test_decode_integers_to_bytes :
    decode 0x38 = .ok (.u8tob false) ∧ decode 0x39 = .ok (.i8tob false) ∧ decode 0x3A = .ok (.u16tob false) ∧
    decode 0x3B = .ok (.i16tob false) ∧ decode 0x3C = .ok (.u32tob false) ∧ decode 0x3D = .ok (.i32tob false) ∧
    decode 0x3E = .ok (.u64tob false) ∧ decode 0x3F = .ok (.i64tob false) :=
  ⟨rfl, rfl, rfl, rfl, rfl, rfl, rfl, rfl⟩

theorem test_decode_floats :
    decode 0x40 = .ok (.b2f32 false) ∧ decode 0x141 = .ok (.b2f64 true) ∧ decode 0x148 = .ok (.f32tob true) ∧
    decode 0x49 = .ok (.f64tob false) :=
  ⟨rfl, rfl, rfl, rfl⟩

theorem test_decode_sha1 :
    decode 0x50 = .ok .sha1 :=
  rfl

theorem test_decode_utf8 :
    decode 0x260 = .ok (.utf8B2c true false false false) ∧
    decode 0x460 = .ok (.utf8B2c false true false false) ∧
    decode 0x860 = .ok (.utf8B2c false false true false) ∧
    decode 0x1060 = .ok (.utf8B2c false false false true) ∧ decode 0xA61 = .ok (.utf8C2b true true false) ∧
    decode 0x1061 = .ok (.utf8C2b false false true) :=
  ⟨rfl, rfl, rfl, rfl, rfl, rfl⟩

theorem test_decode_utf16_and_utf32 :
    decode 0x162 = .ok (.utf16B2c true false false false) ∧
    decode 0xA62 = .ok (.utf16B2c false true true false) ∧
    decode 0x1163 = .ok (.utf16C2b true false false true) ∧
    decode 0x264 = .ok (.utf32B2c false true false false) ∧
    decode 0x1964 = .ok (.utf32B2c true false true true) ∧ decode 0x165 = .ok (.utf32C2b true false false false) :=
  ⟨rfl, rfl, rfl, rfl, rfl, rfl⟩

theorem test_decode_png_and_websocket :
    decode 0x70 = .ok .pngrgba ∧ decode 0x4080 = .ok (.wsenc false true) ∧
    decode 0x2080 = .ok (.wsenc true false) ∧ decode 0x81 = .ok (.wsdec false) ∧
    decode 0x2081 = .ok (.wsdec true) :=
  ⟨rfl, rfl, rfl, rfl, rfl⟩

theorem test_table_word : decodeTableWord 64 0x1260 = some (.utf8B2c true false false true) := rfl
theorem test_table_word_runs : step (State.reset.withFetchWord 64 0x10) = exec .adler32 { State.reset with cmd := 0x10 } := rfl

/-! ### Single steps -/

/-- S1. -/
theorem test_adler32_foo_bar :
    (run 0x10 (holding [0x66, 0x6F, 0x6F, 0x2D, 0x62, 0x61, 0x72])).res0 = 0x0AA402A7 := by decide

/-- 95_test_vectors.md, ADLER32. -/
theorem test_adler32_of_a_wide_lane : (run 0x10 (holding [0x1FF])).res0 = 0x01000100 := by decide

/-- S2. -/
theorem test_crc32_foo123 : (run 0x11 (holding [0x46, 0x6F, 0x6F, 0x31, 0x32, 0x33])).res0 = 0x67EDF5DB := by decide

/-- S6. -/
theorem test_crc32_of_no_bytes : (run 0x11 (holding [])).res0 = 0 ∧ (run 0x11 (holding [])).status = 0x01 := by decide

/-- S4. -/
theorem test_b64enc_two_pads :
    gives (run 0x20 (holding [0x63, 0xE1, 0x66, 0xE9])) [0x59, 0x2B, 0x46, 0x6D, 0x36, 0x51, 0x3D,
      0x3D] = true := by decide

/-- 95, B64ENC: "+/8=". -/
theorem test_b64enc_one_pad : gives (run 0x20 (holding [0xFB, 0xFF])) [0x2B, 0x2F, 0x38, 0x3D] = true := by decide

/-- S14. -/
theorem test_b64dec_pads :
    gives (run 0x21 (holding [0x59, 0x2B, 0x46, 0x6D, 0x36, 0x51, 0x3D, 0x3D])) [0x63, 0xE1, 0x66,
      0xE9] = true := by decide

/-- 95, B64DEC: "QQ==QUI=". -/
theorem test_b64dec_foreign_and_missing_pads :
    gives (run 0x21 (holding [0x51, 0x51, 0x3D, 0x3D, 0x51, 0x55, 0x49, 0x3D])) [0x41, 0x04, 0x14] = true := by decide

/-- V1. -/
theorem test_vlqenc_signs :
    gives (run 0x22 (holding [0, 1, 0xFFFFFFFFFFFFFFFF, 16, 0xFFFFFFFFFFFFFFF0, 123])) [0x41, 0x43, 0x44, 0x67,
      0x42, 0x68, 0x42, 0x32, 0x48] = true := by decide

/-- 95, VLQENC: -2^63. -/
theorem test_vlqenc_most_negative :
    gives (run 0x22 (holding [0x8000000000000000])) [0x68, 0x67, 0x67, 0x67, 0x67, 0x67, 0x67, 0x67, 0x67, 0x67,
      0x67, 0x67, 0x51] = true := by decide

/-- V2. -/
theorem test_vlqdec_signs :
    gives (run 0x23 (holding [0x41, 0x43, 0x44, 0x67, 0x42, 0x68, 0x42, 0x32, 0x48])) [0, 1, 0xFFFFFFFFFFFFFFFF, 16,
      0xFFFFFFFFFFFFFFF0, 123] = true := by decide

/-- R117: "A=". -/
theorem test_vlqdec_bad_character : fails (run 0x23 (holding [0x41, 0x3D])) 0x33 1 0x3D = true := by decide

/-- R133. -/
theorem test_b2u8 :
    gives (run 0x30 (holding [0xAA, 0xBB, 0xCC, 0xDD, 0x80, 0x01, 0x7F, 0xFF])) [0xAA, 0xBB, 0xCC, 0xDD, 0x80, 0x01,
      0x7F, 0xFF] = true := by decide

/-- R134. -/
theorem test_b2i8 :
    gives (run 0x31 (holding [0xAA, 0xBB, 0xCC, 0xDD, 0x80, 0x01, 0x7F, 0xFF])) [0xFFFFFFFFFFFFFFAA,
      0xFFFFFFFFFFFFFFBB, 0xFFFFFFFFFFFFFFCC, 0xFFFFFFFFFFFFFFDD, 0xFFFFFFFFFFFFFF80, 0x01, 0x7F,
      0xFFFFFFFFFFFFFFFF] = true := by decide

/-- R135. -/
theorem test_b2u16 :
    gives (run 0x132 (holding [0xAA, 0xBB, 0xCC, 0xDD, 0x80, 0x01, 0x7F, 0xFF])) [0xBBAA, 0xDDCC, 0x0180,
      0xFF7F] = true := by decide

/-- R136. -/
theorem test_b2i16 :
    gives (run 0x33 (holding [0xAA, 0xBB, 0xCC, 0xDD, 0x80, 0x01, 0x7F, 0xFF])) [0xFFFFFFFFFFFFAABB,
      0xFFFFFFFFFFFFCCDD, 0xFFFFFFFFFFFF8001, 0x7FFF] = true := by decide

/-- R137. -/
theorem test_b2u32 :
    gives (run 0x34 (holding [0xAA, 0xBB, 0xCC, 0xDD, 0x80, 0x01, 0x7F, 0xFF])) [0xAABBCCDD,
      0x80017FFF] = true := by decide

/-- R138. -/
theorem test_b2i32 :
    gives (run 0x135 (holding [0xAA, 0xBB, 0xCC, 0xDD, 0x80, 0x01, 0x7F, 0xFF])) [0xFFFFFFFFDDCCBBAA,
      0xFFFFFFFFFF7F0180] = true := by decide

/-- R139. -/
theorem test_b2u64 :
    gives (run 0x136 (holding [0xAA, 0xBB, 0xCC, 0xDD, 0x80, 0x01, 0x7F,
      0xFF])) [0xFF7F0180DDCCBBAA] = true := by decide

/-- R140. -/
theorem test_b2i64 :
    gives (run 0x37 (holding [0xAA, 0xBB, 0xCC, 0xDD, 0x80, 0x01, 0x7F,
      0xFF])) [0xAABBCCDD80017FFF] = true := by decide

/-- R137. -/
theorem test_b2u32_discards_the_rest : gives (run 0x34 (holding [1, 2, 3, 4, 5])) [0x01020304] = true := by decide

/-- R141. -/
theorem test_u8tob :
    gives (run 0x38 (holding [0x00000000AABBCCDD, 0xFFFFFFFFFFFFFFFF, 0x8000000000000000,
      0x0123456789ABCDEF])) [0xDD, 0xFF, 0x00, 0xEF] = true := by decide

/-- R142. -/
theorem test_i8tob :
    gives (run 0x39 (holding [0x00000000AABBCCDD, 0xFFFFFFFFFFFFFFFF, 0x8000000000000000,
      0x0123456789ABCDEF])) [0xDD, 0xFF, 0x00, 0xEF] = true := by decide

/-- R143. -/
theorem test_u16tob :
    gives (run 0x13A (holding [0x00000000AABBCCDD, 0xFFFFFFFFFFFFFFFF, 0x8000000000000000,
      0x0123456789ABCDEF])) [0xDD, 0xCC, 0xFF, 0xFF, 0x00, 0x00, 0xEF, 0xCD] = true := by decide

/-- R144. -/
theorem test_i16tob :
    gives (run 0x3B (holding [0x00000000AABBCCDD, 0xFFFFFFFFFFFFFFFF, 0x8000000000000000,
      0x0123456789ABCDEF])) [0xCC, 0xDD, 0xFF, 0xFF, 0x00, 0x00, 0xCD, 0xEF] = true := by decide

/-- R145. -/
theorem test_u32tob :
    gives (run 0x3C (holding [0x00000000AABBCCDD, 0xFFFFFFFFFFFFFFFF, 0x8000000000000000,
      0x0123456789ABCDEF])) [0xAA, 0xBB, 0xCC, 0xDD, 0xFF, 0xFF, 0xFF, 0xFF, 0x00, 0x00, 0x00, 0x00, 0x89, 0xAB,
      0xCD, 0xEF] = true := by decide

/-- R146, R145. -/
theorem test_i32tob :
    gives (run 0x13D (holding [0x00000000AABBCCDD, 0xFFFFFFFFFFFFFFFF, 0x8000000000000000,
      0x0123456789ABCDEF])) [0xDD, 0xCC, 0xBB, 0xAA, 0xFF, 0xFF, 0xFF, 0xFF, 0x00, 0x00, 0x00, 0x00, 0xEF, 0xCD,
      0xAB, 0x89] = true := by decide

/-- R147. -/
theorem test_u64tob :
    gives (run 0x3E (holding [0x00000000AABBCCDD, 0xFFFFFFFFFFFFFFFF, 0x8000000000000000,
      0x0123456789ABCDEF])) [0x00, 0x00, 0x00, 0x00, 0xAA, 0xBB, 0xCC, 0xDD, 0xFF, 0xFF, 0xFF, 0xFF, 0xFF, 0xFF,
      0xFF, 0xFF, 0x80, 0x00, 0x00, 0x00, 0x00, 0x00, 0x00, 0x00, 0x01, 0x23, 0x45, 0x67, 0x89, 0xAB, 0xCD,
      0xEF] = true := by decide

/-- R148, R147. -/
theorem test_i64tob :
    gives (run 0x13F (holding [0x00000000AABBCCDD, 0xFFFFFFFFFFFFFFFF, 0x8000000000000000,
      0x0123456789ABCDEF])) [0xDD, 0xCC, 0xBB, 0xAA, 0x00, 0x00, 0x00, 0x00, 0xFF, 0xFF, 0xFF, 0xFF, 0xFF, 0xFF,
      0xFF, 0xFF, 0x00, 0x00, 0x00, 0x00, 0x00, 0x00, 0x00, 0x80, 0xEF, 0xCD, 0xAB, 0x89, 0x67, 0x45, 0x23,
      0x01] = true := by decide

/-- R164. -/
theorem test_b2f32_pi : gives (run 0x140 (holding [0xDB, 0x0F, 0x49, 0x40])) [0x400921FB60000000] = true := by decide

/-- R164. -/
theorem test_b2f32_corners :
    gives (run 0x40 (holding [0x00, 0x00, 0x00, 0x03, 0xFF, 0x80, 0x00, 0x01, 0xFF, 0x80, 0x00,
      0x00])) [0x36B8000000000000, 0x7FF8000000000000, 0xFFF0000000000000] = true := by decide

/-- R165. -/
theorem test_b2f64_nan_and_pi :
    gives (run 0x41 (holding [0xFF, 0xF0, 0x00, 0x00, 0x00, 0x00, 0x00, 0x01, 0x40, 0x09, 0x21, 0xFB, 0x54, 0x44,
      0x2D, 0x18])) [0x7FF8000000000000, 0x400921FB54442D18] = true := by decide

/-- R167. -/
theorem test_f32tob_ties :
    gives (run 0x48 (holding [0x3FF0000010000000, 0x3FF0000030000000, 0x47EFFFFFF0000000,
      0x36B4000000000000])) [0x3F, 0x80, 0x00, 0x00, 0x3F, 0x80, 0x00, 0x02, 0x7F, 0x80, 0x00, 0x00, 0x00, 0x00,
      0x00, 0x02] = true := by decide

/-- R167. -/
theorem test_f32tob_subnormal_and_nan :
    gives (run 0x48 (holding [0x380FFFFFE0000000, 0xFFF0000000000001, 0x800FFFFFFFFFFFFF])) [0x00, 0x80, 0x00, 0x00,
      0x7F, 0xC0, 0x00, 0x00, 0x80, 0x00, 0x00, 0x00] = true := by decide

/-- R168. -/
theorem test_f64tob :
    gives (run 0x149 (holding [0x400921FB54442D18, 0xFFF0000000000001])) [0x18, 0x2D, 0x44, 0x54, 0xFB, 0x21, 0x09,
      0x40, 0x00, 0x00, 0x00, 0x00, 0x00, 0x00, 0xF8, 0x7F] = true := by decide

/-- S3. -/
theorem test_sha1_xyz :
    (fun t : State => (t.res0, t.res1, t.res2, t.res3, t.res4)) (run 0x50 (holding [120, 121, 122])) =
      (0x66B27417, 0xD37E024C, 0x46526C2F, 0x6D358A75, 0x4FC552F3) := by decide +kernel

/-- R181. -/
theorem test_sha1_text_of_no_bytes :
    gives (run 0x50 (holding [])) [100, 97, 51, 57, 97, 51, 101, 101, 53, 101, 54, 98, 52, 98, 48, 100, 51, 50, 53,
      53, 98, 102, 101, 102, 57, 53, 54, 48, 49, 56, 57, 48, 97, 102, 100, 56, 48, 55, 48,
      57] = true := by decide +kernel

/-- S11, and R209 for the same bytes with ALLOW_OVERLONG in both modes. -/
theorem test_utf8_overlong_nul : gives (run 0x60 (holding [0xC0, 0x80])) [0xFFFD] = true ∧
    gives (run 0x460 (holding [0xC0, 0x80])) [0] = true ∧ gives (run 0x660 (holding [0xC0, 0x80])) [0] = true := by decide

/-- S12. -/
theorem test_utf8_overlong_nul_strict : fails (run 0x260 (holding [0xC0, 0x80])) 0x13 0 0xC0 = true := by decide

/-- R206. -/
theorem test_utf8_c2b :
    gives (run 0x61 (holding [0x48, 0xE9, 0x20AC, 0x1F600])) [0x48, 0xC3, 0xA9, 0xE2, 0x82, 0xAC, 0xF0, 0x9F, 0x98,
      0x80] = true := by decide

/-- R211. -/
theorem test_utf8_c2b_compares_whole_lanes :
    fails (run 0x61 (holding [0x100000041])) 0x23 0 0x100000041 = true := by decide

/-- R229: lenient, and with ALLOW_SURR in both modes. -/
theorem test_utf16_b2c_lone_half :
    gives (run 0x62 (holding [0xD8, 0x3D, 0xD8, 0x3D, 0xDE, 0x00])) [0xFFFD, 0x1F600] = true ∧
    gives (run 0x862 (holding [0xD8, 0x3D, 0x00, 0x41])) [0xD83D, 0x41] = true ∧
    gives (run 0xA62 (holding [0xD8, 0x3D, 0x00, 0x41])) [0xD83D, 0x41] = true := by decide

/-- R222. -/
theorem test_utf16_b2c_mark_overrides_le :
    gives (run 0x1062 (holding [0xFF, 0xFE, 0x41, 0x00])) [0x41] = true := by decide

/-- R224. -/
theorem test_utf16_c2b_with_a_mark :
    gives (run 0x1163 (holding [0x48, 0xE9, 0x20AC, 0x1F600])) [0xFF, 0xFE, 0x48, 0x00, 0xE9, 0x00, 0xAC, 0x20,
      0x3D, 0xD8, 0x00, 0xDE] = true := by decide

/-- R225. -/
theorem test_utf32_b2c :
    gives (run 0x64 (holding [0x00, 0x00, 0x00, 0x48, 0x00, 0x01, 0xF6, 0x00])) [0x48, 0x1F600] = true := by decide

/-- R225. -/
theorem test_utf32_b2c_strict : fails (run 0x264 (holding [0x00, 0x11, 0x00, 0x00])) 0x13 0 0x00 = true := by decide

/-- R226. -/
theorem test_utf32_c2b :
    gives (run 0x165 (holding [0x48, 0x1F600])) [0x48, 0x00, 0x00, 0x00, 0x00, 0xF6, 0x01, 0x00] = true := by decide

/-- R257. -/
theorem test_pngrgba_red_checksums :
    ((run 0x70 (holding [] 0xFF0000FF)).output.drop 116).take 8 =
      [0x3C, 0x40, 0x1F, 0xE1, 0x52, 0xED, 0xFF, 0xA2] := by decide +kernel

/-- R257, R258. -/
theorem test_pngrgba_layout :
    (fun out : List Lane => (out.length, out.take 4, out.drop 128)) (run 0x70 (holding [] 0x100FF0080)).output =
      (136, [0x89, 0x50, 0x4E, 0x47], [0x49, 0x45, 0x4E, 0x44, 0xAE, 0x42, 0x60, 0x82]) := by decide +kernel

/-- R263. -/
theorem test_wsenc_masked :
    gives (run 0x4080 (holding [72, 101, 108, 108, 111] 0x11 0x37FA213D)) [0x81, 0x85, 0x37, 0xFA, 0x21, 0x3D, 0x7F,
      0x9F, 0x4D, 0x51, 0x58] = true := by decide

/-- S7. -/
theorem test_wsenc_hello :
    gives (run 0x80 (holding [72, 101, 108, 108, 111] 0x11)) [0x81, 0x05, 0x48, 0x65, 0x6C, 0x6C,
      0x6F] = true := by decide

/-- R264. -/
theorem test_wsdec_masked_fields :
    (fun t : State => (t.olen, t.res0, t.res1, t.res2, t.res3, t.res4))
      (run 0x81 (holding [0x81, 0x85, 0x37, 0xFA, 0x21, 0x3D, 0x7F, 0x9F, 0x4D, 0x51, 0x58])) = (5, 0x311, 5,
      0x37FA213D, 6, 0) := by decide

/-- R268. -/
theorem test_wsdec_short_header : fails (run 0x81 (holding [0x81, 0x7E, 0x00])) 0x13 3 4 = true := by decide

/-- R311. -/
theorem test_illegal_before_capacity :
    fails (run 0x160 { holding [] with ilen := 300 }) 0x43 0 0x160 = true := by decide

/-- R311. -/
theorem test_input_capacity_before_the_op :
    fails (run 0x260 { holding [0xC0] with ilen := 257 }) 0x53 256 0 = true := by decide

/-- R311. -/
theorem test_own_error_before_output_capacity :
    fails (run 0x260 { holding [0x41, 0x42, 0x43, 0xC0, 0x80] with ocap := 2 }) 0x13 3 0xC0 = true := by decide

/-- R311. -/
theorem test_output_capacity :
    fails (run 0x60 { holding [0x41, 0x42, 0x43, 0xC0, 0x80] with ocap := 2 }) 0x53 2 1 = true := by decide

/-! ### Witnesses: for every statement with hypotheses, operands that meet them, clause by clause -/

/-- What a command leaves, as a state. -/
def after (i : Instr) (s : State) : State := s.runOp (opOf i s.arg0 s.arg1)

theorem exec_after (i : Instr) (s : State) : exec i s = .next (after i s) := exec_eq i s

theorem command_after {c : Lane} {i : Instr} (h : decode c = .ok i) (s : State) :
    commandWrite c s = .next (after i { s with cmd := c }) := by
  rw [commandWrite, h]
  exact exec_after i _

/-- A context into which the host has copied the output of `t`. -/
def fedBy (t : State) : State := { holding [] with ibuf := Memory.ofList t.output, ilen := t.olen }

/-- A context whose script is the given events. -/
def scripted (es : List Event) : State := { holding [1, 2] with script := es }

theorem witness_DecodedWordsAreEncodings : decode 0x6080 = .ok (.wsenc true true) := rfl

theorem witness_StepRunsTheDecodedInstruction : decode 0x50 = .ok .sha1 ∧
    (scripted [.access (.writeReg 0 0x50), .reset]).script = .access (.writeReg 0 0x50) :: [.reset] := ⟨rfl, rfl⟩

theorem witness_IllegalWordsEndWithEIllegal : legalWord 0x110 = false ∧ legalWord (BitVec.allOnes 64) = false := by decide

theorem witness_IllegalWordsEndWithEIllegal_values :
    [(0x0F : Lane), 0x12, 0x1F, 0x24, 0x2F, 0x42, 0x47, 0x4A, 0x4F, 0x51, 0x5F, 0x66, 0x6F, 0x71, 0x7F, 0x82, 0xFF,
      0x8010, 0x110].all (fun c => !legalWord c) = true ∧
    (∃ r ∈ opRows, (0x110 : Lane) &&& 0xFF = r.op ∧ (0x110 : Lane) &&& 0x7F00 &&& ~~~r.accepted ≠ 0) := by decide

theorem witness_StepPerformsTheNextEvent : (scripted []).script = [] ∧
    (scripted [.access (.readReg 1)]).script = .access (.readReg 1) :: [] ∧
    (scripted [.reset]).script = .reset :: [] := ⟨rfl, rfl, rfl⟩

theorem witness_InputAboveCapacityFails : State.icap { holding [] with ilen := 257 } = 256 ∧
    (State.icap { holding [] with ilen := 257 }).toNat < (State.ilen { holding [] with ilen := 257 }).toNat := by decide

/-- An output that exactly fits, one that is a lane too long, and an error of the op's own. -/
theorem witness_OutputCapacityDecidesOnlyDelivery :
    (holding [1, 2]).ready ∧ exec .b64enc (holding [1, 2]) = .next (after .b64enc (holding [1, 2])) ∧
    (after .b64enc (holding [1, 2])).status = 0x01 ∧ (after .b64enc (holding [1, 2])).olen.toNat = 4 ∧
    (State.ocap { holding [1, 2] with ocap := 3 }).toNat < (after .b64enc (holding [1, 2])).olen.toNat ∧
    exec .vlqdec (holding [61]) = .next (after .vlqdec (holding [61])) ∧ (after .vlqdec (holding [61])).status = 0x33 :=
  ⟨by decide, exec_after .., by decide, by decide, by decide, exec_after .., by decide⟩

theorem witness_CommandsAndAccessesWriteOnlyTheirOwn :
    commandWrite 0x10 (holding [1]) = .next (after .adler32 { holding [1] with cmd := 0x10 }) ∧
    (HostAccess.writeReg 1 7).writesCmd = false ∧
    hostAccess (.writeReg 1 7) (holding [1]) = .next (holding [1]) := ⟨command_after rfl _, rfl, rfl⟩

/-- Two contexts that agree on the operands and differ in STATUS, CMD and a lane at ILEN. -/
theorem witness_CommandsArePure :
    (holding [5]).ilen = State.ilen { holding [5, 9] with ilen := 1, status := 0x13 } ∧
    (∀ k, k < (holding [5]).ilen.toNat →
      (holding [5]).ibuf.read k = (State.ibuf { holding [5, 9] with ilen := 1, status := 0x13 }).read k) ∧
    commandWrite 0x10 (holding [5]) = .next (after .adler32 { holding [5] with cmd := 0x10 }) ∧
    commandWrite 0x10 { holding [5, 9] with ilen := 1, status := 0x13 } =
      .next (after .adler32 { holding [5, 9] with ilen := 1, status := 0x13, cmd := 0x10 }) := by
  refine ⟨rfl, fun k hk => ?_, command_after rfl _, command_after rfl _⟩
  have : k = 0 := Nat.lt_one_iff.1 hk
  subst this
  decide

theorem witness_OnlyTheListedOpsUseScalars :
    exec .adler32 (holding [1] 2 3) = .next (after .adler32 (holding [1] 2 3)) ∧
    exec .adler32 (holding [1] 8 9) = .next (after .adler32 (holding [1] 8 9)) := ⟨exec_after .., exec_after ..⟩

theorem witness_ListedOpsNeverRaise : neverRaises (.utf8B2c false false false true) = true ∧ (holding [0xC0]).ready ∧
    exec (.utf8B2c false false false true) (holding [0xC0]) =
      .next (after (.utf8B2c false false false true) (holding [0xC0])) := ⟨rfl, by decide, exec_after ..⟩

/-- Each of the three errors of an op's own. -/
theorem witness_ErrorsComeOnlyFromTheListedOps :
    (after (.wsdec false) (holding [0x81])).status = 0x13 ∧
    (after (.utf8C2b false false false) (holding [0x110000])).status = 0x23 ∧
    (after .vlqdec (holding [61])).status = 0x33 := by decide

theorem witness_StatusFieldsAfterEveryCommand :
    commandWrite 0 (holding []) = .next (State.illegalCommand (holding []) 0) ∧
    commandWrite 0x10 (holding []) = .next (after .adler32 { holding [] with cmd := 0x10 }) := ⟨rfl, command_after rfl _⟩

/-- Index 15, the first reserved one; lane 256, the first beyond IBUF and OBUF; lane 255, the last one inside. -/
theorem witness_HostPrimitives : 15 ∉ [0, 4, 8, 9] ∧ (holding [1]).icap.toNat ≤ 256 ∧ 255 < (holding [1]).icap.toNat ∧
    (holding [1]).ocap.toNat ≤ 256 ∧ 255 < (holding [1]).ocap.toNat ∧ (holding [1]).ibuf.wf = true := by decide

/-- A host read beyond the capacity answers 0 (R52; log 9), even in a state whose lists hold such a lane. -/
theorem test_reads_beyond_the_capacity :
    hostAccess (.readIbuf 1) { holding [7] with icap := 1, ibuf := [(0, 7), (1, 9)] } =
      .next ({ holding [7] with icap := 1, ibuf := [(0, 7), (1, 9)] }.answer 0) ∧
    hostAccess (.readObuf 1) { holding [7] with ocap := 1, obuf := [(0, 7), (1, 9)] } =
      .next ({ holding [7] with ocap := 1, obuf := [(0, 7), (1, 9)] }.answer 0) := ⟨rfl, rfl⟩

theorem holding_inv : (holding [7, 0, 9] 1 2).Inv :=
  ⟨by decide, by decide, by decide, by decide, by decide, by decide, by decide, by decide, by decide⟩

/-- The invariant with an output in OBUF, and with an error report. -/
theorem after_inv : (after .b64enc (holding [7, 0, 9])).Inv ∧ (after .vlqdec (holding [61])).Inv := by
  refine ⟨⟨?_, ?_, ?_, ?_, ?_, ?_, ?_, ?_, ?_⟩, ⟨?_, ?_, ?_, ?_, ?_, ?_, ?_, ?_, ?_⟩⟩ <;> decide

theorem witness_HostSeesOnlyTheOutput : (after .b64enc (holding [7, 0, 9])).Inv ∧
    (after .b64enc (holding [7, 0, 9])).olen.toNat = 4 ∧ (after .b64enc (holding [7, 0, 9])).ocap.toNat = 256 :=
  ⟨after_inv.1, by decide, by decide⟩

/-- A host write to OBUF is refused: no primitive of R52 writes it (log 10). -/
theorem test_obuf_write_is_refused :
    step (scripted [.access (.writeObuf 0 1)]) = .refused .notAPrimitive := rfl

theorem witness_AccessesAreIdempotent : (holding [7]).ibuf.wf = true ∧
    (0 < (holding [7]).icap.toNat ∧ 255 < (holding [7]).ocap.toNat) ∧
    ((HostAccess.readIbuf 0).isRead = true ∧ (HostAccess.readReg 4).isRead = true ∧
      hostAccess (.readIbuf 0) (holding [7]) = .next ((holding [7]).answer 7) ∧
      hostAccess (.readReg 4) (holding [7]) = .next ((holding [7]).answer 1)) ∧
    hostAccess (.writeIbuf 255 3) (holding [7]) = .next ((holding [7]).writeIbuf 255 3) ∧
    commandWrite 0x10 (holding [7]) = .next (after .adler32 { holding [7] with cmd := 0x10 }) :=
  ⟨by decide, by decide, ⟨rfl, rfl, rfl, rfl⟩, rfl, command_after rfl _⟩

theorem witness_BusAccessesArePrimitivesOrRefused :
    ((4 : Nat) ≠ 8) ∧ (byteAddress .ibuf 0 + 1 - spaceBase .ibuf) % 8 ≠ 0 := by
  refine ⟨by decide, ?_⟩
  simp [byteAddress]

theorem witness_StepKeepsTheInvariant : (holding [7, 0, 9] 1 2).Inv ∧
    step (holding [7, 0, 9] 1 2) = .next (holding [7, 0, 9] 1 2) := ⟨holding_inv, rfl⟩

/-- Both contexts step; and a context steps beside one whose next access is refused. -/
theorem witness_ContextsShareNothing :
    (Block.step 0 ⟨[scripted [], scripted [.reset]]⟩ = .next ⟨[scripted [], scripted [.reset]]⟩ ∧
      Block.step 1 ⟨[scripted [], scripted [.reset]]⟩ = .next ⟨[scripted [], (scripted []).platformReset]⟩) ∧
    (Block.step 0 ⟨[scripted [], scripted [.access (.writeObuf 0 1)]]⟩ =
        .next ⟨[scripted [], scripted [.access (.writeObuf 0 1)]]⟩ ∧
      Block.step 1 ⟨[scripted [], scripted [.access (.writeObuf 0 1)]]⟩ = .refused .notAPrimitive) :=
  ⟨⟨rfl, rfl⟩, rfl, rfl⟩

theorem witness_Adler32Result : (holding [0x66, 0x6F]).ready := by decide

theorem witness_Crc32Result : (holding [0x61]).ready := by decide

theorem witness_B64encResult : (holding [1, 2]).roomFor (4 * ((2 + 2) / 3)) ∧ (holding [1, 2]).ilen.toNat = 2 := by decide

theorem witness_B64decResult :
    (holding [81, 81, 61]).roomFor ((base64Symbols (holding [81, 81, 61]).byteValues).length * 3 / 4) := by decide

theorem witness_Base64RoundTrip : (holding [1, 2]).roomFor 4 ∧
    exec .b64enc (holding [1, 2]) = .next (after .b64enc (holding [1, 2])) ∧
    FeedsInto (after .b64enc (holding [1, 2])) (fedBy (after .b64enc (holding [1, 2]))) ∧
    (fedBy (after .b64enc (holding [1, 2]))).roomFor 2 := ⟨by decide, exec_after .., by decide, by decide⟩

theorem witness_VlqencResult : (holding [0, 123]).roomFor (vlqTextOf (holding [0, 123]).input).length := by decide

theorem witness_VlqdecResult : (holding [103, 66, 68]).roomFor [[32, 1], [3]].length ∧
    (∀ g ∈ [[32, 1], [3]], isQuantaString g = true ∧ foldedFits (quantaValue g) = true) ∧
    (holding [103, 66, 68]).byteValues = [[32, 1], [3]].flatten.map alphabetAt := by decide

theorem witness_VlqdecErrors :
    ((holding [65, 103, 61, 65]).byteValues = [[0]].flatten.map alphabetAt ++ [32].map alphabetAt ++ 61 :: [65] ∧
      allOpen [32] = true ∧ 61 ∉ base64Alphabet) ∧
    ((holding [65, 103, 103, 103, 103, 103, 103, 103, 103, 103, 103, 103, 103, 81]).byteValues =
      [[0]].flatten.map alphabetAt ++ (List.replicate 12 32 ++ [16]).map alphabetAt ++ [] ∧
      isQuantaString (List.replicate 12 32 ++ [16]) = true ∧
      foldedFits (quantaValue (List.replicate 12 32 ++ [16])) = false) ∧
    ((holding [65, 103]).byteValues = [[0]].flatten.map alphabetAt ++ [32].map alphabetAt ∧
      allOpen [32] = true ∧ [32] ≠ []) := by decide

theorem witness_VlqRoundTrip : (holding [16]).roomFor (vlqTextOf (holding [16]).input).length ∧
    exec .vlqenc (holding [16]) = .next (after .vlqenc (holding [16])) ∧
    FeedsInto (after .vlqenc (holding [16])) (fedBy (after .vlqenc (holding [16]))) ∧
    (fedBy (after .vlqenc (holding [16]))).roomFor 1 := ⟨by decide, exec_after .., by decide, by decide⟩

theorem witness_BytesToIntegersResult : (.b2i16 true, 2, true) ∈ bytesToIntOps true ∧
    (holding [1, 2, 3]).roomFor (3 / 2) := by decide

theorem witness_IntegersToBytesResult : (.i64tob false, 8) ∈ intToBytesOps false ∧
    (holding [1, 2, 3]).roomFor (3 * 8) := by decide

theorem witness_IntegerRoundTrips : (.b2i16 false, 2, true) ∈ bytesToIntOps false ∧ (.u16tob false, 2) ∈ intToBytesOps false ∧
    FeedsInto (after (.b2i16 false) (holding [200, 2, 3])) (fedBy (after (.b2i16 false) (holding [200, 2, 3]))) ∧
    (fedBy (after (.b2i16 false) (holding [200, 2, 3]))).roomFor 2 ∧
    FeedsInto (after (.u16tob false) (holding [70000])) (fedBy (after (.u16tob false) (holding [70000]))) ∧
    (fedBy (after (.u16tob false) (holding [70000]))).roomFor 1 := by decide

theorem witness_IntegerRoundTrips_reversed : (.b2i16 true, 2, true) ∈ bytesToIntOps (!false) ∧
    (holding [2, 200, 3]).ilen = (holding [200, 2, 3]).ilen ∧
    ∀ k < 1, ∀ m < 2, (holding [2, 200, 3]).byteAt (2 * k + m) = (holding [200, 2, 3]).byteAt (2 * k + (2 - 1 - m)) := by
  decide

theorem witness_B2f32Result : (holding [1, 2, 3, 4, 5]).roomFor (5 / 4) := by decide

theorem witness_B2f64Result : (holding [1, 2, 3, 4, 5, 6, 7, 8]).roomFor (8 / 8) := by decide

theorem witness_F32tobResult : (holding [1, 2]).roomFor (2 * 4) := by decide

theorem witness_F64tobResult : (holding [1, 2]).roomFor (2 * 8) := by decide

/-- Groups that are the infinity, the boundary to the NaNs. -/
theorem witness_FloatRoundTrips :
    nan64 (groupValue 8 false (holding [0x7F, 0xF0, 0, 0, 0, 0, 0, 0]).byteAt (8 * 0)) = false ∧
    FeedsInto (after (.b2f64 false) (holding [0x7F, 0xF0, 0, 0, 0, 0, 0, 0]))
      (fedBy (after (.b2f64 false) (holding [0x7F, 0xF0, 0, 0, 0, 0, 0, 0]))) ∧
    nan32 (groupValue 4 false (holding [0xFF, 0x80, 0, 0]).byteAt (4 * 0)) = false ∧
    FeedsInto (after (.b2f32 false) (holding [0xFF, 0x80, 0, 0])) (fedBy (after (.b2f32 false) (holding [0xFF, 0x80, 0, 0]))) ∧
    (fedBy (after (.b2f32 false) (holding [0xFF, 0x80, 0, 0]))).roomFor 4 := by decide

theorem witness_Sha1Result : (holding [120, 121, 122]).roomFor 40 := by decide

/-- Minimal sequences without a mark under BOM = 1, overlong ones behind a mark, and a mark that BOM = 0 leaves in. -/
theorem witness_Utf8B2cOnWellFormedText :
    ((holding [0xC2, 0x80, 0x41]).roomFor 2 ∧ Utf8Text false false [0x80, 0x41] [0xC2, 0x80, 0x41] ∧
      MarkRead (fun _ => utf8Form) true true true [] [0xC2, 0x80, 0x41] ∧
      (holding [0xC2, 0x80, 0x41]).byteValues = [] ++ [0xC2, 0x80, 0x41]) ∧
    ((holding [0xEF, 0xBB, 0xBF, 0xC0, 0x80, 0xF0, 0x8D, 0xA0, 0x80]).roomFor 2 ∧
      Utf8Text true true [0, 0xD800] [0xC0, 0x80, 0xF0, 0x8D, 0xA0, 0x80] ∧
      MarkRead (fun _ => utf8Form) true true true [0xEF, 0xBB, 0xBF] [0xC0, 0x80, 0xF0, 0x8D, 0xA0, 0x80] ∧
      (holding [0xEF, 0xBB, 0xBF, 0xC0, 0x80, 0xF0, 0x8D, 0xA0, 0x80]).byteValues =
        [0xEF, 0xBB, 0xBF] ++ [0xC0, 0x80, 0xF0, 0x8D, 0xA0, 0x80]) ∧
    (Utf8Text false false [0xFEFF] [0xEF, 0xBB, 0xBF] ∧ MarkRead (fun _ => utf8Form) true true false [] [0xEF, 0xBB, 0xBF]) :=
  ⟨⟨by decide, ⟨[2, 1], by decide⟩, .inr (by decide), by decide⟩,
    ⟨by decide, ⟨[2, 4], by decide⟩, .inl (by decide), by decide⟩, ⟨[3], by decide⟩, .inr (by decide)⟩

/-- A pair and an unpaired half with no mark, and a text whose mark overrides LE. -/
theorem witness_Utf16B2cOnWellFormedText :
    ((holding [0, 0xD8, 0, 0xDC, 0x3D, 0xD8]).roomFor 2 ∧ Utf16Text true true [0x10000, 0xD83D] [0, 0xD8, 0, 0xDC, 0x3D, 0xD8] ∧
      MarkRead utf16Form true true true [] [0, 0xD8, 0, 0xDC, 0x3D, 0xD8] ∧
      (holding [0, 0xD8, 0, 0xDC, 0x3D, 0xD8]).byteValues = [] ++ [0, 0xD8, 0, 0xDC, 0x3D, 0xD8]) ∧
    ((holding [0xFE, 0xFF, 0, 0x41]).roomFor 1 ∧ Utf16Text false false [0x41] [0, 0x41] ∧
      MarkRead utf16Form false true true [0xFE, 0xFF] [0, 0x41] ∧
      (holding [0xFE, 0xFF, 0, 0x41]).byteValues = [0xFE, 0xFF] ++ [0, 0x41]) :=
  ⟨⟨by decide, ⟨by decide, by decide, by decide⟩, .inr (by decide), by decide⟩,
    by decide, ⟨by decide, by decide, by decide⟩, .inl (by decide), by decide⟩

theorem witness_Utf32B2cOnWellFormedText :
    ((holding [0, 0, 0xD8, 0]).roomFor 1 ∧ Utf32Text true false [0xD800] [0, 0, 0xD8, 0] ∧
      MarkRead utf32Form false false true [] [0, 0, 0xD8, 0] ∧
      (holding [0, 0, 0xD8, 0]).byteValues = [] ++ [0, 0, 0xD8, 0]) ∧
    (Utf32Text false false [] [] ∧ MarkRead utf32Form false true true [0, 0, 0xFE, 0xFF] [] ∧
      (holding [0, 0, 0xFE, 0xFF]).byteValues = [0, 0, 0xFE, 0xFF] ++ []) :=
  ⟨⟨by decide, ⟨by decide, by decide⟩, .inr (by decide), by decide⟩, ⟨by decide, by decide⟩, .inl (by decide), by decide⟩

theorem witness_LenientDecodersAreTotal : .utf16B2c true false false true ∈ lenientDecodeOps true false false true ∧
    (holding [0xFF]).ready := by decide

/-- A unit for each of the rows of R205, the truncated one stopped by the end of input and by another byte. -/
theorem witness_MalformedUtf8Units : MalformedUtf8 false false [0x80] [] ∧ MalformedUtf8 false false [0xF8] [0x80] ∧
    MalformedUtf8 true true [0xE2, 0x82] [] ∧ MalformedUtf8 true true [0xF7] [0x41] ∧
    MalformedUtf8 false true [0xC1, 0xBF] [] ∧ MalformedUtf8 true false [0xED, 0xA0, 0x80] [] ∧
    MalformedUtf8 true true [0xF4, 0x90, 0x80, 0x80] [] ∧
    (holding [0xEF, 0xBB, 0xBF, 0xC1, 0x81, 0xE2, 0x82]).ready ∧ Utf8Text true true [0x41] [0xC1, 0x81] ∧
    MarkRead (fun _ => utf8Form) true true true [0xEF, 0xBB, 0xBF] ([0xC1, 0x81] ++ [0xE2, 0x82] ++ []) ∧
    (holding [0xEF, 0xBB, 0xBF, 0xC1, 0x81, 0xE2, 0x82]).byteValues =
      [0xEF, 0xBB, 0xBF] ++ [0xC1, 0x81] ++ [0xE2, 0x82] ++ [] ∧
    (holding []).byteValues = [] ∧
    exec (.utf8B2c false true true false) (holding []) = .next ((holding []).completed [] 0 0 0 0 0) :=
  ⟨.stray _ _ (by decide), .invalid _ _ (by decide), .truncated _ 3 _ _ (by decide) (by decide) (by decide) (by decide),
    .truncated _ 4 _ _ (by decide) (by decide) (by decide) (by decide),
    .rejected _ 2 1 0x80 _ _ (by decide) (by decide) (by decide) (by decide),
    .rejected _ 3 0xD 0x800 _ _ (by decide) (by decide) (by decide) (by decide),
    .rejected _ 4 4 0x10000 _ _ (by decide) (by decide) (by decide) (by decide), by decide, ⟨[2], by decide⟩,
    .inl (by decide), by decide, by decide,
    (exec_after ..).trans (by rw [after, State.runOp_ok (r := {}) (by decide) rfl (by decide)])⟩

theorem witness_MalformedUtf16AndUtf32Units :
    MalformedUtf16 true false (unit16Form true 0xD800) [] ∧ MalformedUtf16 true false (unit16Form true 0xDFFF) [0, 0xDC] ∧
    MalformedUtf16 true true [0x41] [] ∧ MalformedUtf32 false true (utf32Form false 0x110000) [] ∧
    MalformedUtf32 false false (utf32Form false 0xDFFF) [1] ∧ MalformedUtf32 false true [0, 0, 0] [] ∧
    ((holding [0xFF, 0xFE, 0x41, 0, 0, 0xD8]).ready ∧ Utf16Text false true [0x41] [0x41, 0] ∧
      MarkRead utf16Form true false true [0xFF, 0xFE] ([0x41, 0] ++ unit16Form true 0xD800 ++ []) ∧
      (holding [0xFF, 0xFE, 0x41, 0, 0, 0xD8]).byteValues = [0xFF, 0xFE] ++ [0x41, 0] ++ unit16Form true 0xD800 ++ [] ∧
      (holding []).byteValues = []) ∧
    ((holding [0, 0x11, 0, 0]).ready ∧ Utf32Text true false [] [] ∧
      MarkRead utf32Form false false true [] ([] ++ utf32Form false 0x110000 ++ []) ∧
      (holding [0, 0x11, 0, 0]).byteValues = [] ++ [] ++ utf32Form false 0x110000 ++ []) ∧
    exec (.utf16B2c true false false false) (holding []) = .next ((holding []).completed [] 0 0 0 0 0) ∧
    exec (.utf32B2c false false true false) (holding []) = .next ((holding []).completed [] 0 0 0 0 0) :=
  ⟨.high _ _ (by decide) (by decide) rfl, .low _ _ (by decide) rfl, .leftover _ (by decide), .above _ _ (by decide),
    .half _ _ (by decide) rfl, .leftover _ (by decide),
    ⟨by decide, ⟨by decide, by decide, by decide⟩, .inl (by decide), by decide, by decide⟩,
    ⟨by decide, ⟨by decide, by decide⟩, .inr (by decide), by decide⟩,
    (exec_after ..).trans (by rw [after, State.runOp_ok (r := {}) (by decide) rfl (by decide)]),
    (exec_after ..).trans (by rw [after, State.runOp_ok (r := {}) (by decide) rfl (by decide)])⟩

/-- A lenient command with a surrogate half, and a strict one with the largest codepoint. -/
theorem witness_CodepointsToBytesResult :
    ((holding [0xD800, 0x41]).input.all fun v => decide (v.toNat ≤ 0x10FFFF)) = true ∧
    ((holding [0x10FFFF]).input.all fun v => decide (v.toNat ≤ 0x10FFFF) && isCarried false v.toNat) = true ∧
    (holding [0x10FFFF]).roomFor ((if true then utf8Form 0xFEFF else []) ++
      encodedText utf8Form ((holding [0x10FFFF]).input.map fun v => writtenCodepoint false v.toNat)).length := by
  decide +kernel

theorem witness_CodepointsToBytesErrors : (holding [0x41, 0x110000]).ready ∧ 1 < (holding [0x41, 0x110000]).ilen.toNat ∧
    ((holding [0x41, 0x110000]).ibuf.read 0).toNat ≤ 0x10FFFF ∧
    isCarried false ((holding [0x41, 0x110000]).ibuf.read 0).toNat = true ∧
    0x10FFFF < ((holding [0x41, 0x110000]).ibuf.read 1).toNat ∧
    0xD800 ≤ ((holding [0x41, 0xDFFF]).ibuf.read 1).toNat ∧ ((holding [0x41, 0xDFFF]).ibuf.read 1).toNat ≤ 0xDFFF := by decide

/-- For UTF-16 a list with an unpaired surrogate half, written under ALLOW_SURR. -/
theorem witness_TranscodersRoundTrip :
    ((holding [0x41, 0xDC00, 0xD800]).input.all fun v => isCarried true v.toNat) = true ∧
    halvesApart ((holding [0x41, 0xDC00, 0xD800]).input.map BitVec.toNat) = true ∧
    (after (.utf16C2b true true true true) (holding [0x41, 0xDC00, 0xD800])).status = 0x01 ∧
    FeedsInto (after (.utf16C2b true true true true) (holding [0x41, 0xDC00, 0xD800]))
      (fedBy (after (.utf16C2b true true true true) (holding [0x41, 0xDC00, 0xD800]))) ∧
    (fedBy (after (.utf16C2b true true true true) (holding [0x41, 0xDC00, 0xD800]))).roomFor 3 := by decide +kernel

theorem witness_PngrgbaResult : (holding [] 0xFF0000FF).roomFor 136 := by decide

theorem witness_WsencResult :
    (holding [1, 2] 0x11 7).roomFor ((frameHeader true (0x11 : Lane).toNat (7 : Lane).toNat 2).length + 2) := by decide

/-- A whole frame, no byte at all, and a header that ends one byte too early. -/
theorem witness_WsdecResult :
    (2 ≤ (holding [0x81, 1, 72]).ilen.toNat ∧
      (frameFields (holding [0x81, 1, 72]).byteAt).header ≤ (holding [0x81, 1, 72]).ilen.toNat ∧
      (holding [0x81, 1, 72]).roomFor (min (frameFields (holding [0x81, 1, 72]).byteAt).declared 1)) ∧
    ((holding [0x81]).ready ∧ (holding [0x81]).ilen.toNat < 2) ∧
    ((holding [0x81, 0x7E, 0]).ready ∧ 2 ≤ (holding [0x81, 0x7E, 0]).ilen.toNat ∧
      (holding [0x81, 0x7E, 0]).ilen.toNat < (frameFields (holding [0x81, 0x7E, 0]).byteAt).header) := by decide

theorem witness_WebSocketRoundTrip : (holding [1, 2] 0x11 7).roomFor (6 + 2) ∧
    exec (.wsenc false true) (holding [1, 2] 0x11 7) = .next (after (.wsenc false true) (holding [1, 2] 0x11 7)) ∧
    FeedsInto (after (.wsenc false true) (holding [1, 2] 0x11 7)) (fedBy (after (.wsenc false true) (holding [1, 2] 0x11 7))) ∧
    (fedBy (after (.wsenc false true) (holding [1, 2] 0x11 7))).roomFor 2 := ⟨by decide, exec_after .., by decide, by decide⟩

end Sys2Proof.Tests
end

section
/-! PROOFS. What a command produces is a function of its operands (R10). -/

namespace Sys2Proof.Machine

/-- The lanes at and above ILEN are no part of the input sequence (R17). -/
theorem State.input_congr {s u : State} (hlen : s.ilen = u.ilen)
    (hread : ∀ k, k < s.ilen.toNat → s.ibuf.read k = u.ibuf.read k) : s.input = u.input := by
  unfold State.input
  rw [← hlen]
  exact List.map_congr_left fun k hk => hread k (List.mem_range.1 hk)

/-- Two contexts that agree on the operands end a CMD write of the same word in the same way, each in its own state
(R10): with the same error report or with the same results. `State.runOp_congr` says it of a legal word's op; an illegal
word's report is made of the word alone (R305). -/
theorem commandWrite_congr (c : Lane) {s u : State} (hlen : s.ilen = u.ilen) (harg0 : s.arg0 = u.arg0)
    (harg1 : s.arg1 = u.arg1) (hicap : s.icap = u.icap) (hocap : s.ocap = u.ocap)
    (hread : ∀ k, k < s.ilen.toNat → s.ibuf.read k = u.ibuf.read k) :
    (∃ st pos info : Lane, commandWrite c s = .next ({ s with cmd := c }.failed st pos info) ∧
      commandWrite c u = .next ({ u with cmd := c }.failed st pos info)) ∨
    (∃ (out : List Lane) (r0 r1 r2 r3 r4 : Lane),
      commandWrite c s = .next ({ s with cmd := c }.completed out r0 r1 r2 r3 r4) ∧
      commandWrite c u = .next ({ u with cmd := c }.completed out r0 r1 r2 r3 r4)) := by
  unfold commandWrite
  cases decode c with
  | ok i =>
    have hin : State.input { s with cmd := c } = State.input { u with cmd := c } := State.input_congr hlen hread
    have hop : opOf i s.arg0 s.arg1 = opOf i u.arg0 u.arg1 := by rw [harg0, harg1]
    simp only [exec_eq]
    rcases State.runOp_congr (opOf i s.arg0 s.arg1) (s := { s with cmd := c }) (u := { u with cmd := c })
        hlen hicap hocap hin with ⟨st, pos, info, hs, hu⟩ | ⟨out, r0, r1, r2, r3, r4, hs, hu⟩ <;> rw [hop] at hu
    · exact .inl ⟨st, pos, info, congrArg _ hs, congrArg _ hu⟩
    · exact .inr ⟨out, r0, r1, r2, r3, r4, congrArg _ hs, congrArg _ hu⟩
  | error _ =>
    simp only [State.illegalCommand_eq]
    exact .inl ⟨_, _, _, rfl, rfl⟩

/-- Settles O12: the two commands end in the same way (`commandWrite_congr`), and each output is then a field that the
common report or the common results fix. -/
theorem commandsArePure : Obligations.CommandsArePure := by
  intro c s u t v hlen harg0 harg1 hicap hocap hread ht hv
  rcases commandWrite_congr c hlen harg0 harg1 hicap hocap hread with
    ⟨st, pos, info, hs, hu⟩ | ⟨out, r0, r1, r2, r3, r4, hs, hu⟩
  all_goals
    obtain rfl := Host.Outcome.next.inj (hs.symm.trans ht)
    obtain rfl := Host.Outcome.next.inj (hu.symm.trans hv)
    simp

end Sys2Proof.Machine
end

section
/-! PROOFS. The rules that the statements on the state (10_state.md) turn on: how a command ends and what decided it, what
an op's outcome may be, and what one step can do. -/

namespace Sys2Proof.Machine

/-! ### How a command ends -/

/-- The input check fails (R31 step 4, R306). -/
theorem State.runOp_inputTooLong {s : State} (op : List Lane → Except OpError OpResult)
    (h : s.icap.toNat < s.ilen.toNat) : s.runOp op = s.failed 0x53 s.icap 0 := by
  rw [State.runOp_eq, if_pos h]

/-- A ready command whose output does not fit (R306). -/
theorem State.runOp_outputTooLong {s : State} {op : List Lane → Except OpError OpResult} {r : OpResult} (hr : s.ready)
    (h : op s.input = .ok r) (hlong : s.ocap.toNat < r.out.length) : s.runOp op = s.failed 0x53 s.ocap 1 := by
  rw [State.runOp_eq, if_neg (Nat.not_lt.2 hr), h]
  exact if_pos hlong

/-- Everything a legal command can do, each end with what decided it (R31, R310). `State.runOp_cases` says less: it
forgets the op's outcome. -/
theorem State.runOp_branches (s : State) (op : List Lane → Except OpError OpResult) :
    (s.icap.toNat < s.ilen.toNat ∧ s.runOp op = s.failed 0x53 s.icap 0) ∨
    (∃ e, op s.input = .error e ∧
      s.runOp op = s.failed e.code.report (BitVec.ofNat 64 e.pos) (BitVec.ofNat 64 e.info)) ∨
    (∃ r, op s.input = .ok r ∧ s.ocap.toNat < r.out.length ∧ s.runOp op = s.failed 0x53 s.ocap 1) ∨
    (∃ r, op s.input = .ok r ∧ r.out.length ≤ s.ocap.toNat ∧
      s.runOp op = s.completed r.out r.r0 r.r1 r.r2 r.r3 r.r4) := by
  rcases Nat.lt_or_ge s.icap.toNat s.ilen.toNat with hin | hready
  · exact .inl ⟨hin, State.runOp_inputTooLong op hin⟩
  · cases hop : op s.input with
    | error e => exact .inr (.inl ⟨e, rfl, State.runOp_error hready hop⟩)
    | ok r =>
      rcases Nat.lt_or_ge s.ocap.toNat r.out.length with hlong | hfit
      · exact .inr (.inr (.inl ⟨r, rfl, hlong, State.runOp_outputTooLong hready hop hlong⟩))
      · exact .inr (.inr (.inr ⟨r, rfl, hfit, State.runOp_ok hready hop hfit⟩))

/-- No length is lost in OLEN when the output fits, since a capacity is a 64-bit number. -/
theorem toNat_ofNat_of_le_lane {n : Nat} {cap : Lane} (h : n ≤ cap.toNat) : (BitVec.ofNat 64 n).toNat = n := by
  rw [BitVec.toNat_ofNat, Nat.mod_eq_of_lt (Nat.lt_of_le_of_lt h cap.isLt)]

/-- No error report reads as success (R303). -/
theorem ErrorCode.report_ne_done (e : ErrorCode) : e.report ≠ 0x01 := by
  cases e <;> decide

/-- The fields of each of the five error reports: DONE, ERR, CODE and the reserved bits (R29, R303). -/
theorem errorReport_fields : ∀ st ∈ [(0x13 : Lane), 0x23, 0x33, 0x43, 0x53],
    st.getLsbD 0 = true ∧ st.getLsbD 1 = true ∧ st.extractLsb' 4 4 ≠ 0 ∧ (st.extractLsb' 4 4).toNat ≤ 5 ∧
    st.extractLsb' 2 2 = 0 ∧ st >>> 8 = 0 := by
  simp only [List.forall_mem_cons]
  simp

/-- Every error report is above the two values that STATUS has without an error (R29, R303). -/
theorem one_lt_errorReport : ∀ st ∈ [(0x13 : Lane), 0x23, 0x33, 0x43, 0x53], 1 < st.toNat := by
  simp only [List.forall_mem_cons]
  simp

/-! ### What an op's outcome may be -/

/-- The codepoints of a bytes-to-codepoints op leave as an output sequence, or its error does. -/
theorem codepointOutputs_eq_raisingOutputs (r : Except OpError (List Nat)) :
    ∃ out, codepointOutputs r = raisingOutputs out := by
  cases r with
  | ok cps => exact ⟨.ok (cps.map codepointLane), rfl⟩
  | error e => exact ⟨.error e, rfl⟩

/-- The bytes of a codepoints-to-bytes op leave as an output sequence, or its error does. -/
theorem encodedOutputs_eq_raisingOutputs (mark : List Byte) (r : Except OpError (List Byte)) :
    ∃ out, encodedOutputs mark r = raisingOutputs out := by
  cases r with
  | ok bs => exact ⟨.ok ((mark ++ bs).map byteLane), rfl⟩
  | error e => exact ⟨.error e, rfl⟩

/-- The ops to which R22 gives no RES register have an output sequence or an error, and nothing else, as their outcome. -/
theorem opOf_eq_raisingOutputs {i : Instr} (h : i ∉ [.adler32, .crc32, .sha1, .wsdec false, .wsdec true])
    (arg0 arg1 : Lane) (input : List Lane) : ∃ out, opOf i arg0 arg1 input = raisingOutputs out := by
  cases i
  case adler32 | crc32 | sha1 => simp at h
  case wsdec nomask => cases nomask <;> simp at h
  case vlqdec | wsenc => exact ⟨_, rfl⟩
  case utf8B2c | utf16B2c | utf32B2c => exact codepointOutputs_eq_raisingOutputs _
  case utf8C2b | utf16C2b | utf32C2b => exact encodedOutputs_eq_raisingOutputs _ _
  all_goals exact ⟨.ok _, rfl⟩

/-- An output sequence comes with no scalar result. -/
theorem raisingOutputs_ok {out : Except OpError (List Lane)} {r : OpResult} (h : raisingOutputs out = .ok r) :
    r.r0 = 0 ∧ r.r1 = 0 ∧ r.r2 = 0 ∧ r.r3 = 0 ∧ r.r4 = 0 := by
  cases out with
  | ok lanes =>
    cases h
    exact ⟨rfl, rfl, rfl, rfl, rfl⟩
  | error e => cases h

/-- WSDEC leaves RES4 alone (R264). -/
theorem wsDecode_ok_r4 {nomask : Bool} {bs : List Byte} {r : OpResult} (h : wsDecode nomask bs = .ok r) : r.r4 = 0 := by
  unfold wsDecode at h
  split at h
  · simp only at h
    split at h
    · cases h
    · cases h
      rfl
  · cases h

/-- Which ops compute which scalar result: the columns RES0 to RES4 of R22. -/
theorem opOf_scalars {i : Instr} {arg0 arg1 : Lane} {input : List Lane} {r : OpResult}
    (h : opOf i arg0 arg1 input = .ok r) :
    (i ∉ [.adler32, .crc32, .sha1, .wsdec false, .wsdec true] → r.r0 = 0) ∧
    (i ∉ [.sha1, .wsdec false, .wsdec true] → r.r1 = 0 ∧ r.r2 = 0 ∧ r.r3 = 0) ∧ (i ≠ .sha1 → r.r4 = 0) := by
  by_cases hi : i ∈ [Instr.adler32, .crc32, .sha1, .wsdec false, .wsdec true]
  · cases i
    case adler32 | crc32 => cases h; simp
    case sha1 => simp
    case wsdec nomask =>
      have h4 := wsDecode_ok_r4 h
      cases nomask <;> simp [h4]
    all_goals simp at hi
  · obtain ⟨out, hout⟩ := opOf_eq_raisingOutputs hi arg0 arg1 input
    obtain ⟨h0, h1, h2, h3, h4⟩ := raisingOutputs_ok (hout.symm.trans h)
    exact ⟨fun _ => h0, fun _ => ⟨h1, h2, h3⟩, fun _ => h4⟩

/-- WSENC's one error is E_RANGE (R263). -/
theorem wsEncode_error {nomask hasmask : Bool} {arg0 arg1 : Lane} {bs : List Byte} {e : OpError}
    (h : wsEncode nomask hasmask arg0 arg1 bs = .error e) : e.code = .range := by
  unfold wsEncode at h
  split at h
  · cases h
    rfl
  · cases h

/-- No op raises E_ILLEGAL or E_CAPACITY, which are the command step's own (R300, R305, R306). -/
theorem opOf_error_code {i : Instr} {arg0 arg1 : Lane} {input : List Lane} {e : OpError}
    (h : opOf i arg0 arg1 input = .error e) : e.code = .format ∨ e.code = .range ∨ e.code = .badchar := by
  cases i
  case vlqdec => exact vlqDecodeFrom_error _ _ _ _ _ _ (raisingOutputs_error.1 h)
  case utf8B2c | utf16B2c | utf32B2c => exact .inl (decodeFrom_error _ _ _ _ _ _ (codepointOutputs_error.1 h)).2
  case utf8C2b | utf16C2b | utf32C2b =>
    rcases encodeFrom_error _ _ _ _ _ _ (encodedOutputs_error.1 h) with hc | ⟨-, -, hc⟩
    · exact .inr (.inl hc)
    · exact .inl hc
  case wsenc =>
    have hw := raisingOutputs_error.1 h
    split at hw
    · cases hw
    · cases hw
      exact .inr (.inl (wsEncode_error ‹_›))
  case wsdec => exact .inl (wsDecode_error h)
  all_goals cases h

/-- The report of an op's own error (R300, R303). -/
theorem opOf_error_report {i : Instr} {arg0 arg1 : Lane} {input : List Lane} {e : OpError}
    (h : opOf i arg0 arg1 input = .error e) : e.code.report ∈ [(0x13 : Lane), 0x23, 0x33] := by
  rcases opOf_error_code h with hc | hc | hc <;> simp [hc, ErrorCode.report]

/-- WSENC without HASMASK ignores ARG1 (R263). -/
theorem wsEncode_without_mask (nomask : Bool) (arg0 arg1 arg1' : Lane) (bs : List Byte) :
    wsEncode nomask false arg0 arg1 bs = wsEncode nomask false arg0 arg1' bs := by
  simp only [wsEncode, Bool.false_eq_true, if_false, Bool.false_and]

/-- Only PNGRGBA and WSENC read ARG0 (R22). -/
theorem opOf_arg0 {i : Instr} (h : ¬(i = .pngrgba ∨ ∃ n m, i = .wsenc n m)) (arg0 arg0' arg1 : Lane) :
    opOf i arg0 arg1 = opOf i arg0' arg1 := by
  cases i
  case pngrgba => exact absurd (.inl rfl) h
  case wsenc n m => exact absurd (.inr ⟨n, m, rfl⟩) h
  all_goals rfl

/-- Only WSENC with HASMASK reads ARG1 (R22, R263). -/
theorem opOf_arg1 {i : Instr} (h : ¬∃ n, i = .wsenc n true) (arg0 arg1 arg1' : Lane) :
    opOf i arg0 arg1 = opOf i arg0 arg1' := by
  cases i
  case wsenc n m =>
    cases m with
    | true => exact absurd ⟨n, rfl⟩ h
    | false =>
      funext input
      simp only [opOf]
      rw [wsEncode_without_mask n arg0 arg1 arg1']
  all_goals rfl

/-! ### What one step can do -/

/-- A step performs the event that stands first in the script (R61). -/
theorem step_of_script {s : State} {e : Event} {rest : List Event} (h : s.script = e :: rest) :
    step s = perform e { s with script := rest } := by
  rw [step, nextEvent, h]

/-- What a step can do: nothing with no event left, the next host access, or the platform's reset (R326, R341, R352). -/
theorem step_cases {s t : State} (h : step s = .next t) :
    t = s ∨ (∃ a rest, hostAccess a { s with script := rest } = .next t) ∨
    ∃ rest, t = State.platformReset { s with script := rest } := by
  cases hs : s.script with
  | nil =>
    rw [step, nextEvent, hs] at h
    cases h
    exact .inl rfl
  | cons e rest =>
    rw [step_of_script hs] at h
    cases e with
    | access a => exact .inr (.inl ⟨a, rest, h⟩)
    | reset =>
      cases h
      exact .inr (.inr ⟨rest, rfl⟩)

/-- A CMD write of a word that decodes runs the instruction with CMD holding the word (R31 steps 1 and 5). -/
theorem commandWrite_of_decode {c : Lane} {i : Instr} (h : decode c = .ok i) (s : State) :
    commandWrite c s = exec i { s with cmd := c } := by
  rw [commandWrite, h]

/-- The next state of a legal command is the wrapper's around the op. -/
theorem exec_next {i : Instr} {s t : State} (h : exec i s = .next t) : t = s.runOp (opOf i s.arg0 s.arg1) :=
  Host.Outcome.next.inj (h.symm.trans (exec_eq i s))

/-- `commandWrite_cases` of the next state: an error report, or results that fit. -/
theorem commandWrite_next {c : Lane} {s t : State} (h : commandWrite c s = .next t) :
    (∃ st pos info : Lane, st ∈ [(0x13 : Lane), 0x23, 0x33, 0x43, 0x53] ∧ t = { s with cmd := c }.failed st pos info) ∨
    (∃ (out : List Lane) (r0 r1 r2 r3 r4 : Lane), out.length ≤ s.ocap.toNat ∧
      t = { s with cmd := c }.completed out r0 r1 r2 r3 r4) := by
  rcases commandWrite_cases c s with ⟨st, pos, info, hst, hc⟩ | ⟨out, r0, r1, r2, r3, r4, hfit, hc⟩
  · exact .inl ⟨st, pos, info, hst, Host.Outcome.next.inj (h.symm.trans hc)⟩
  · exact .inr ⟨out, r0, r1, r2, r3, r4, hfit, Host.Outcome.next.inj (h.symm.trans hc)⟩

/-- A host write of a register other than CMD changes nothing but ILEN, ARG0 and ARG1 (R21). -/
theorem State.setRegister_eq (s : State) (i : Nat) (v : Lane) :
    ∃ ilen arg0 arg1, s.setRegister i v = { s with ilen := ilen, arg0 := arg0, arg1 := arg1 } := by
  unfold State.setRegister
  split <;> exact ⟨_, _, _, rfl⟩

theorem State.writeIbuf_lt {s : State} {i : Nat} (h : i < s.icap.toNat) (v : Lane) :
    s.writeIbuf i v = { s with ibuf := s.ibuf.write i v } := if_pos h

theorem State.writeIbuf_ge {s : State} {i : Nat} (h : s.icap.toNat ≤ i) (v : Lane) : s.writeIbuf i v = s :=
  if_neg (Nat.not_lt.2 h)

end Sys2Proof.Machine
end

section
/-! PROOFS. Every step keeps the invariant of a context and its capacities (R20, R24, R25, R29, R30, R303, R340). -/

namespace Sys2Proof.Machine

/-- The invariant speaks of IBUF and of what the block itself writes: the operands, the script and the replies may be
anything. -/
theorem State.Inv.with_operands {s : State} (h : s.Inv) {m : Memory} (hwf : m.wf = true)
    (hwithin : m.within s.icap.toNat = true) (ilen arg0 arg1 : Lane) (script : List Event) (replies : List Lane) :
    State.Inv { s with ibuf := m, ilen := ilen, arg0 := arg0, arg1 := arg1, script := script, replies := replies } :=
  { h with ibuf_wf := hwf, ibuf_within := hwithin }

/-- Delivering an output that fits sets up the invariant again, whatever CMD and the outputs held (R31 step 8). -/
theorem State.inv_completed {s : State} (hwf : s.ibuf.wf = true) (hwithin : s.ibuf.within s.icap.toNat = true)
    {out : List Lane} (hfit : out.length ≤ s.ocap.toNat) (r0 r1 r2 r3 r4 : Lane) :
    (s.completed out r0 r1 r2 r3 r4).Inv where
  ibuf_wf := hwf
  ibuf_within := hwithin
  obuf_wf := Memory.wf_ofList out
  obuf_within := by simp [toNat_ofNat_of_le_lane hfit, -BitVec.toNat_ofNat]
  olen_le := by simpa [toNat_ofNat_of_le_lane hfit, -BitVec.toNat_ofNat] using hfit
  status_value := by simp
  no_report _ := ⟨rfl, rfl⟩
  no_results h := absurd rfl h
  fresh h := absurd h (by simp)

/-- An error report sets up the invariant again (R303). -/
theorem State.inv_failed {s : State} (hwf : s.ibuf.wf = true) (hwithin : s.ibuf.within s.icap.toNat = true)
    {st : Lane} (hst : st ∈ [(0x13 : Lane), 0x23, 0x33, 0x43, 0x53]) (pos info : Lane) : (s.failed st pos info).Inv where
  ibuf_wf := hwf
  ibuf_within := hwithin
  obuf_wf := rfl
  obuf_within := rfl
  olen_le := Nat.zero_le _
  status_value := List.mem_cons_of_mem _ (List.mem_cons_of_mem _ hst)
  no_report h := absurd h (Nat.not_le.2 (one_lt_errorReport st hst))
  no_results _ := ⟨rfl, rfl, rfl, rfl, rfl, rfl⟩
  fresh h := by
    have hlarge := one_lt_errorReport st hst
    rw [show st = 0x00 from h] at hlarge
    exact absurd hlarge (by decide)

theorem commandWrite_inv {c : Lane} {s t : State} (hs : s.Inv) (h : commandWrite c s = .next t) : t.Inv := by
  rcases commandWrite_next h with ⟨st, pos, info, hst, rfl⟩ | ⟨out, r0, r1, r2, r3, r4, hfit, rfl⟩
  · exact State.inv_failed (s := { s with cmd := c }) hs.ibuf_wf hs.ibuf_within hst pos info
  · exact State.inv_completed (s := { s with cmd := c }) hs.ibuf_wf hs.ibuf_within hfit r0 r1 r2 r3 r4

theorem State.Inv.setRegister {s : State} (h : s.Inv) (i : Nat) (v : Lane) : (s.setRegister i v).Inv := by
  obtain ⟨ilen, arg0, arg1, e⟩ := State.setRegister_eq s i v
  rw [e]
  exact h.with_operands h.ibuf_wf h.ibuf_within ilen arg0 arg1 s.script s.replies

/-- A lane is written only below the capacity, and in canonical form (R24). -/
theorem State.Inv.writeIbuf {s : State} (h : s.Inv) (i : Nat) (v : Lane) : (s.writeIbuf i v).Inv := by
  rcases Nat.lt_or_ge i s.icap.toNat with hi | hi
  · rw [State.writeIbuf_lt hi]
    exact h.with_operands (Memory.wf_write h.ibuf_wf i v) (Memory.within_write h.ibuf_within hi v) s.ilen s.arg0 s.arg1
      s.script s.replies
  · rw [State.writeIbuf_ge hi]
    exact h

theorem hostAccess_inv {a : HostAccess} {s t : State} (hs : s.Inv) (h : hostAccess a s = .next t) : t.Inv := by
  rcases hostAccess_cases h with ⟨c, -, hc⟩ | ⟨-, ⟨i, v, -, rfl⟩ | ⟨i, v, rfl⟩ | ⟨v, rfl⟩⟩
  · exact commandWrite_inv hs hc
  · exact hs.setRegister i v
  · exact hs.writeIbuf i v
  · exact hs.with_operands hs.ibuf_wf hs.ibuf_within s.ilen s.arg0 s.arg1 s.script _

/-- The reset state meets the invariant, whatever the script and the replies are (R340). -/
theorem State.platformReset_inv (s : State) : s.platformReset.Inv where
  ibuf_wf := rfl
  ibuf_within := rfl
  obuf_wf := rfl
  obuf_within := rfl
  olen_le := Nat.zero_le _
  status_value := by simp
  no_report _ := ⟨rfl, rfl⟩
  no_results _ := ⟨rfl, rfl, rfl, rfl, rfl, rfl⟩
  fresh _ := rfl

/-- No CMD write changes an operand or a capacity (R32). -/
theorem commandWrite_operands {c : Lane} {s t : State} (h : commandWrite c s = .next t) :
    t.ibuf = s.ibuf ∧ t.ilen = s.ilen ∧ t.arg0 = s.arg0 ∧ t.arg1 = s.arg1 ∧ t.icap = s.icap ∧ t.ocap = s.ocap := by
  rcases commandWrite_next h with ⟨st, pos, info, -, rfl⟩ | ⟨out, r0, r1, r2, r3, r4, -, rfl⟩
  all_goals simp

/-- No host access changes a capacity (R21: "nobody"). -/
theorem hostAccess_capacities {a : HostAccess} {s t : State} (h : hostAccess a s = .next t) :
    t.icap = s.icap ∧ t.ocap = s.ocap := by
  rcases hostAccess_cases h with ⟨c, -, hc⟩ | ⟨-, ⟨i, v, -, rfl⟩ | ⟨i, v, rfl⟩ | ⟨v, rfl⟩⟩
  · obtain ⟨-, -, -, -, hicap, hocap⟩ := commandWrite_operands hc
    exact ⟨hicap, hocap⟩
  all_goals simp

/-- Settles O22: a step does nothing, performs one host access or resets (`step_cases`), and each keeps the invariant and
the capacities. -/
theorem stepKeepsTheInvariant : Obligations.StepKeepsTheInvariant := by
  intro s t hs h
  rcases step_cases h with rfl | ⟨a, rest, ha⟩ | ⟨rest, rfl⟩
  · exact ⟨hs, rfl, rfl⟩
  · have hs' : State.Inv { s with script := rest } :=
      hs.with_operands hs.ibuf_wf hs.ibuf_within s.ilen s.arg0 s.arg1 rest s.replies
    have hcap := hostAccess_capacities ha
    exact ⟨hostAccess_inv hs' ha, hcap⟩
  · exact ⟨State.platformReset_inv _, rfl, rfl⟩

end Sys2Proof.Machine
end

section
/-! PROOFS. What a command and a host access do to the state of a context (R22, R25, R29, R30, R31, R32, R306, R310). -/

namespace Sys2Proof.Machine

/-- Settles O8. -/
theorem inputAboveCapacityFails : Obligations.InputAboveCapacityFails := by
  intro i s h
  rw [exec_eq, State.runOp_inputTooLong _ h]

/-- Settles O9: the op itself does not see the capacity, so the branch that the wider run took (`State.runOp_branches`)
says what the op gave, and with it how the run on `s` ends. -/
theorem outputCapacityDecidesOnlyDelivery : Obligations.OutputCapacityDecidesOnlyDelivery := by
  intro i s t wider hready hwider h
  obtain rfl := exec_next h
  rw [exec_eq]
  rcases State.runOp_branches { s with ocap := wider } (opOf i s.arg0 s.arg1) with
    ⟨hin, -⟩ | ⟨e, hop, hrun⟩ | ⟨r, -, -, hrun⟩ | ⟨r, hop, hfit, hrun⟩
  · exact absurd hready (Nat.not_le.2 hin)
  · rw [State.runOp_error hready hop, hrun]
    exact ⟨fun hst => absurd hst e.code.report_ne_done, fun hst => absurd hst e.code.report_ne_done, fun _ => rfl⟩
  · rw [hrun]
    simp
  · have hlen : (BitVec.ofNat 64 r.out.length).toNat = r.out.length := toNat_ofNat_of_le_lane hfit
    rw [hrun]
    refine ⟨fun _ hle => ?_, fun _ hlt => ?_, fun hst => ?_⟩
    · rw [State.completed_olen, hlen] at hle
      rw [State.runOp_ok hready hop hle]
      rfl
    · rw [State.completed_olen, hlen] at hlt
      rw [State.runOp_outputTooLong hready hop hlt]
    · simp at hst

/-- Settles O10: each branch of the command wrapper is one of the two ends; an op's own error reports none but 0x13, 0x23
and 0x33 (`opOf_error_report`). -/
theorem everyCommandCompletesOrReportsAnError : Obligations.EveryCommandCompletesOrReportsAnError := by
  intro i s
  rw [exec_eq]
  rcases State.runOp_branches s (opOf i s.arg0 s.arg1) with
    ⟨-, hrun⟩ | ⟨e, hop, hrun⟩ | ⟨r, -, -, hrun⟩ | ⟨r, -, hfit, hrun⟩
  · exact .inr ⟨_, _, _, by simp, congrArg _ hrun⟩
  · exact .inr ⟨_, _, _, List.mem_append_left [0x53] (opOf_error_report hop), congrArg _ hrun⟩
  · exact .inr ⟨_, _, _, by simp, congrArg _ hrun⟩
  · exact .inl ⟨_, _, _, _, _, _, hfit, congrArg _ hrun⟩

/-- Settles O11: a CMD write changes outputs only (`commandWrite_operands`); any other access that answers writes a
register other than CMD, writes an IBUF lane or answers a read (`hostAccess_cases`). -/
theorem commandsAndAccessesWriteOnlyTheirOwn : Obligations.CommandsAndAccessesWriteOnlyTheirOwn := by
  refine ⟨fun c s t h => commandWrite_operands h, fun a s t hcmd h => ?_⟩
  rcases hostAccess_cases h with ⟨c, hw, -⟩ | ⟨-, ⟨i, v, -, rfl⟩ | ⟨i, v, rfl⟩ | ⟨v, rfl⟩⟩
  · exact absurd hw (by simp [hcmd])
  all_goals simp

/-- A command that completes leaves in the RES registers what R22 lets its op compute, and one that fails leaves 0. -/
theorem exec_scalars {i : Instr} {s t : State} (h : exec i s = .next t) :
    (i ∉ [.adler32, .crc32, .sha1, .wsdec false, .wsdec true] → t.res0 = 0) ∧
    (i ∉ [.sha1, .wsdec false, .wsdec true] → t.res1 = 0 ∧ t.res2 = 0 ∧ t.res3 = 0) ∧ (i ≠ .sha1 → t.res4 = 0) := by
  obtain rfl := exec_next h
  rcases State.runOp_branches s (opOf i s.arg0 s.arg1) with
    ⟨-, hrun⟩ | ⟨e, -, hrun⟩ | ⟨r, -, -, hrun⟩ | ⟨r, hop, -, hrun⟩ <;> rw [hrun]
  case inr.inr.inr => exact opOf_scalars hop
  all_goals simp

/-- The op stays the same when the argument registers that it does not read are changed (R22, R263). -/
theorem opOf_unread_args (i : Instr) (arg0 arg1 x y : Lane) :
    opOf i (if i = .pngrgba ∨ (∃ n h, i = .wsenc n h) then arg0 else x) (if ∃ n, i = .wsenc n true then arg1 else y) =
      opOf i arg0 arg1 := by
  split_ifs with h0 h1 h1
  · rfl
  · exact opOf_arg1 h1 _ _ _
  · exact opOf_arg0 h0 _ _ _
  · rw [opOf_arg0 h0 x arg0, opOf_arg1 h1 arg0 y arg1]

/-- Settles O13: both runs are of the same op (`opOf_unread_args`) on the same input, so they end in the same way
(`State.runOp_congr`), each in its own state; the RES registers are `exec_scalars`. -/
theorem onlyTheListedOpsUseScalars : Obligations.OnlyTheListedOpsUseScalars := by
  intro i s t u x y ht hu
  refine ⟨?_, exec_scalars ht⟩
  obtain rfl := exec_next ht
  obtain rfl := exec_next hu
  simp only [opOf_unread_args]
  rcases State.runOp_congr (opOf i s.arg0 s.arg1) (s := s) (u := { s with
      arg0 := if i = .pngrgba ∨ (∃ n h, i = .wsenc n h) then s.arg0 else x
      arg1 := if ∃ n, i = .wsenc n true then s.arg1 else y }) rfl rfl rfl rfl with
    ⟨st, pos, info, hs, hu⟩ | ⟨out, r0, r1, r2, r3, r4, hs, hu⟩
  all_goals
    rw [hs, hu]
    rfl

/-- Settles O16: a CMD write leaves one of the five error reports (`errorReport_fields`), or 0x01 and no report. -/
theorem statusFieldsAfterEveryCommand : Obligations.StatusFieldsAfterEveryCommand := by
  intro c s t h
  rcases commandWrite_next h with ⟨st, pos, info, hst, rfl⟩ | ⟨out, r0, r1, r2, r3, r4, -, rfl⟩
  · obtain ⟨hdone, herr, hcode, hle, hlow, hhigh⟩ := errorReport_fields st hst
    exact ⟨hdone, iff_of_false (fun h0 => Bool.noConfusion (herr.symm.trans h0)) hcode, hle, hlow, hhigh,
      fun h0 => Bool.noConfusion (herr.symm.trans h0)⟩
  · simp [State.done, State.err, State.code]

/-- Settles O18: an index below OLEN is below the capacity too, and from OLEN on OBUF holds no lane. -/
theorem hostSeesOnlyTheOutput : Obligations.HostSeesOnlyTheOutput := by
  intro s i v hs
  refine ⟨?_, rfl⟩
  have hread : s.readObuf i = if i < s.olen.toNat then s.obuf.read i else 0 := by
    split_ifs with hi
    · exact State.readObuf_lt (Nat.lt_of_lt_of_le hi hs.olen_le)
    · have hzero : s.obuf.read i = 0 := Memory.read_of_within hs.obuf_within (Nat.not_lt.1 hi)
      rw [State.readObuf, hzero, ite_self]
  rw [← hread]
  rfl

/-- Settles O5: the step performs the CMD write (`step_of_script`), which runs the decoded instruction
(`commandWrite_of_decode`). -/
theorem stepRunsTheDecodedInstruction : Obligations.StepRunsTheDecodedInstruction := by
  intro s c i rest hdec
  constructor
  · intro hscript
    rw [step_of_script hscript]
    exact commandWrite_of_decode hdec _
  · rw [step_of_script (e := .access (.writeReg 0 c)) (rest := s.script) rfl]
    exact commandWrite_of_decode hdec _

end Sys2Proof.Machine
end

section
/-! PROOFS. What the host's accesses do (20_memory.md): the five primitives by index, reads without side effects and
idempotent writes, the bus mapping, and the order in which a step takes the accesses (R52, R53, R57, R59, R61). -/

namespace Sys2Proof.Machine

/-! ### The registers -/

/-- The register file of R21 as one list, 0 beyond it. -/
theorem State.register_eq_getD (s : State) (i : Nat) : s.register i =
    [s.cmd, s.status, s.errpos, s.errinfo, s.ilen, s.olen, s.icap, s.ocap, s.arg0, s.arg1, s.res0, s.res1, s.res2,
      s.res3, s.res4].getD i 0 :=
  match i with
  | 0 | 1 | 2 | 3 | 4 | 5 | 6 | 7 | 8 | 9 | 10 | 11 | 12 | 13 | 14 => rfl
  | _ + 15 => rfl

theorem State.setRegister_ignored {i : Nat} (h : i ∉ [4, 8, 9]) (s : State) (v : Lane) : s.setRegister i v = s := by
  unfold State.setRegister
  split
  case h_4 => rfl
  all_goals simp at h

/-- Writing a register twice is writing it once (R59). -/
theorem State.setRegister_setRegister (s : State) (i : Nat) (v : Lane) :
    (s.setRegister i v).setRegister i v = s.setRegister i v := by
  by_cases h : i ∈ [4, 8, 9]
  · simp only [List.mem_cons, List.not_mem_nil, or_false] at h
    rcases h with rfl | rfl | rfl <;> rfl
  · rw [State.setRegister_ignored h, State.setRegister_ignored h]

/-! ### The lanes of IBUF -/

/-- Of two writes to one lane the second alone counts: both buffers are canonical and read alike. -/
theorem Memory.write_write {m : Memory} (h : m.wf = true) (i : Nat) (v w : Lane) :
    (m.write i v).write i w = m.write i w := by
  have hv : (m.write i v).wf = true := Memory.wf_write h i v
  refine Memory.eq_of_read_eq (Memory.wf_write hv i w) (Memory.wf_write h i w) fun j => ?_
  rw [Memory.read_write hv, Memory.read_write h, Memory.read_write h]
  split_ifs <;> rfl

/-- Writing a lane twice is writing it once (R59). -/
theorem State.writeIbuf_writeIbuf {s : State} (h : s.ibuf.wf = true) (i : Nat) (v : Lane) :
    (s.writeIbuf i v).writeIbuf i v = s.writeIbuf i v := by
  rcases Nat.lt_or_ge i s.icap.toNat with hi | hi
  · have hi' : i < (s.writeIbuf i v).icap.toNat := by rwa [State.writeIbuf_icap]
    rw [State.writeIbuf_lt hi', State.writeIbuf_lt hi, Memory.write_write h]
  · rw [State.writeIbuf_ge hi, State.writeIbuf_ge hi]

/-! ### CMD -/

/-- A CMD write repeated recomputes the state that it left (R59): it changes no operand (`commandWrite_operands`), so both
runs end with the same outputs (`commandWrite_congr`), and only outputs are written. -/
theorem commandWrite_again {c : Lane} {s t : State} (h : commandWrite c s = .next t) : commandWrite c t = .next t := by
  obtain ⟨hibuf, hilen, harg0, harg1, hicap, hocap⟩ := commandWrite_operands h
  rcases commandWrite_congr c hilen.symm harg0.symm harg1.symm hicap.symm hocap.symm (fun k _ => by rw [hibuf]) with
    ⟨st, pos, info, hs, ht⟩ | ⟨out, r0, r1, r2, r3, r4, hs, ht⟩
  all_goals
    rw [ht]
    obtain rfl := Host.Outcome.next.inj (hs.symm.trans h)
    rfl

/-- A register write other than one to CMD (R52). -/
theorem hostAccess_writeReg {i : Nat} (h : i ≠ 0) (v : Lane) (s : State) :
    hostAccess (.writeReg i v) s = .next (s.setRegister i v) := if_neg h

/-! ### Reads and the bus -/

/-- A read answers a value, and answers the same one when another read came before it (R59): what a read leaves differs
in the replies alone. -/
theorem indexedAccess_read (sp : Space) (i : Nat) (s : State) :
    ∃ v, indexedAccess sp i none s = .next (s.answer v) ∧
      ∀ w, indexedAccess sp i none (s.answer w) = .next ((s.answer w).answer v) := by
  cases sp with
  | registers => exact ⟨s.register i, rfl, fun _ => rfl⟩
  | ibuf => exact ⟨s.readIbuf i, rfl, fun _ => rfl⟩
  | obuf => exact ⟨s.readObuf i, rfl, fun _ => rfl⟩

theorem hostAccess_bus_of_index {q : BusRequest} {i : Nat} (h : busIndex q = some i) (s : State) :
    hostAccess (.bus q) s = indexedAccess q.space i q.data s := by
  rw [hostAccess, busAccess, h]

theorem hostAccess_bus_of_none {q : BusRequest} (h : busIndex q = none) (s : State) :
    hostAccess (.bus q) s = .refused .undefinedAccess := by
  rw [hostAccess, busAccess, h]

/-- A host read that is not refused is the read primitive on some index of a space, in every state. -/
theorem hostAccess_isRead {a : HostAccess} (ha : a.isRead = true) {s t : State} (h : hostAccess a s = .next t) :
    ∃ sp i, ∀ u, hostAccess a u = indexedAccess sp i none u := by
  cases a with
  | readReg i => exact ⟨.registers, i, fun _ => rfl⟩
  | readIbuf i => exact ⟨.ibuf, i, fun _ => rfl⟩
  | readObuf i => exact ⟨.obuf, i, fun _ => rfl⟩
  | bus q =>
    have hdata : q.data = none := Option.isNone_iff_eq_none.1 ha
    cases hi : busIndex q with
    | none => exact nomatch (hostAccess_bus_of_none hi s).symm.trans h
    | some i => exact ⟨q.space, i, fun u => by rw [hostAccess_bus_of_index hi, hdata]⟩
  | writeReg | writeIbuf | writeObuf => exact nomatch ha

/-- R53's mapping read backwards. -/
theorem busIndex_byteAddress (sp : Space) (i : Nat) (data : Option Lane) :
    busIndex ⟨sp, byteAddress sp i, 8, data⟩ = some i := by
  simp [busIndex, byteAddress]

theorem busIndex_undefined {q : BusRequest}
    (h : q.width ≠ 8 ∨ q.address < spaceBase q.space ∨ (q.address - spaceBase q.space) % 8 ≠ 0) : busIndex q = none := by
  refine if_neg fun ⟨hwidth, hbase, hgrid⟩ => ?_
  rcases h with h | h | h
  · exact h hwidth
  · exact Nat.not_lt.2 hbase h
  · exact h hgrid

/-! ### The obligations -/

/-- Settles O17: each primitive is the register or lane operation of its own, and what the IBUF write leaves is
`Memory.read_write`. -/
theorem hostPrimitives : Obligations.HostPrimitives := by
  intro s i v
  refine ⟨?readReg, rfl, rfl, rfl, rfl, fun hi => ?ignored, rfl, rfl, fun hi => ?beyond, fun hi hwf => ?inside⟩
  case readReg =>
    rw [← State.register_eq_getD]
    rfl
  case ignored =>
    obtain ⟨h0, hi⟩ := List.ne_and_not_mem_of_not_mem_cons hi
    rw [hostAccess_writeReg h0, State.setRegister_ignored hi]
  case beyond => exact congrArg _ (State.writeIbuf_ge hi v)
  case inside =>
    refine ⟨s.ibuf.write i v, congrArg _ (State.writeIbuf_lt hi v), ?_, fun j hj => ?_⟩
    · rw [Memory.read_write hwf, if_pos rfl]
    · rw [Memory.read_write hwf, if_neg hj]

/-- Settles O19: a read is a read primitive (`hostAccess_isRead`), which sees nothing of the replies
(`indexedAccess_read`); a repeated write is `State.writeIbuf_writeIbuf`, `commandWrite_again` or
`State.setRegister_setRegister`. -/
theorem accessesAreIdempotent : Obligations.AccessesAreIdempotent := by
  refine ⟨fun i s => ⟨⟨_, rfl⟩, ⟨_, rfl⟩, ⟨_, rfl⟩⟩, fun a b s t u ha hb ht hu => ?reads,
    fun i v s t hwf h => ?ibuf, fun i v s t h => ?register⟩
  case reads =>
    obtain ⟨sp, i, hread⟩ := hostAccess_isRead ha ht
    obtain ⟨sp', j, hread'⟩ := hostAccess_isRead hb hu
    obtain ⟨v, hv, hagain⟩ := indexedAccess_read sp i s
    obtain ⟨w, hw, -⟩ := indexedAccess_read sp' j s
    have hu' : u = s.answer w := Host.Outcome.next.inj ((hu.symm.trans (hread' s)).trans hw)
    refine ⟨v, Host.Outcome.next.inj ((ht.symm.trans (hread s)).trans hv), ?_⟩
    rw [hread, hu', hagain]
  case ibuf =>
    obtain rfl : s.writeIbuf i v = t := Host.Outcome.next.inj h
    exact congrArg Host.Outcome.next (State.writeIbuf_writeIbuf hwf i v)
  case register =>
    by_cases h0 : i = 0
    · subst h0
      exact commandWrite_again h
    · rw [hostAccess_writeReg h0] at h ⊢
      obtain rfl := Host.Outcome.next.inj h
      rw [State.setRegister_setRegister]

/-- Settles O7. -/
theorem stepPerformsTheNextEvent : Obligations.StepPerformsTheNextEvent := by
  refine fun s a rest => ⟨fun h => ?empty, fun h => step_of_script h, fun h => step_of_script h⟩
  rw [step, nextEvent, h]

/-- Settles O20: the index of the address decides (`busIndex_byteAddress`, `busIndex_undefined`). -/
theorem busAccessesArePrimitivesOrRefused : Obligations.BusAccessesArePrimitivesOrRefused := by
  intro sp i address width data s
  refine ⟨?_, fun h => hostAccess_bus_of_none (busIndex_undefined h) s⟩
  rw [hostAccess_bus_of_index (busIndex_byteAddress sp i data)]
  cases sp <;> cases data <;> rfl

end Sys2Proof.Machine
end

section
/-! PROOFS. The command-word encoding (R71 to R76): the encoder and the decoder are inverse to each other, and both
agree with the op table. -/

namespace Sys2Proof

/-! ### Flags in a command word -/

@[simp] theorem getElem_flagValue (b : Bool) (k : Nat) {j : Nat} (hj : j < 64) :
    (flagValue b k)[j] = (b && decide (j = k)) := by
  cases b with
  | false => simp [flagValue]
  | true =>
    rw [← BitVec.getLsbD_eq_getElem, flagValue, if_pos rfl, ← BitVec.twoPow_eq, BitVec.getLsbD_twoPow]
    have hk : k = j → k < 64 := fun h => h ▸ hj
    simpa [eq_comm] using hk

/-- Writing a flag that was read from a word masks the word with the flag's CMD value (R73). -/
theorem flagValue_getElem (w : Lane) {k : Nat} (hk : k < 64) : flagValue w[k] k = w &&& 1#64 <<< k := by
  rw [← BitVec.twoPow_eq, BitVec.and_twoPow, BitVec.getLsbD_eq_getElem hk, BitVec.twoPow_eq]
  rfl

theorem flagValue_and (b : Bool) {k : Nat} {m : Lane} (hm : m.getLsbD k = false) : flagValue b k &&& m = 0#64 := by
  ext j hj
  rw [BitVec.getElem_and, getElem_flagValue, BitVec.getElem_zero]
  by_cases h : j = k
  · subst h
    rw [← BitVec.getLsbD_eq_getElem, hm, Bool.and_false]
  · simp [h]

/-! ### What a word still decodes to when an accepted flag is added -/

/-- The OP field is the low byte (R71). -/
theorem opField_eq (c : Lane) : opField c = (c &&& 0xFF).toNat := by
  rw [opField, BitVec.extractLsb'_toNat, BitVec.toNat_and, Nat.shiftRight_zero]
  exact (Nat.and_two_pow_sub_one_eq_mod c.toNat 8).symm

@[simp] theorem opField_ofNat {n : Nat} (hn : n < 256) : opField (BitVec.ofNat 64 n) = n := by
  rw [opField, BitVec.extractLsb'_toNat, BitVec.toNat_ofNat, Nat.shiftRight_zero]
  omega

@[simp] theorem opField_or_flagValue (c : Lane) (b : Bool) {k : Nat} (hk : 8 ≤ k) :
    opField (c ||| flagValue b k) = opField c := by
  have hlow : (0xFF : Lane).getLsbD k = false := by
    rw [show (0xFF : Lane) = BitVec.setWidth 64 (BitVec.allOnes 8) from rfl, BitVec.getLsbD_setWidth,
      BitVec.getLsbD_of_ge _ k hk, Bool.and_false]
  rw [opField_eq, opField_eq, BitVec.and_or_distrib_right, flagValue_and b hlow, BitVec.or_zero]

@[simp] theorem or_flagValue_ushiftRight (c : Lane) (b : Bool) {k : Nat} (hk : k < 15) :
    (c ||| flagValue b k) >>> 15 = c >>> 15 := by
  ext j hj
  by_cases h : 15 + j < 64
  · have hne : 15 + j ≠ k := by omega
    simp [BitVec.getLsbD_eq_getElem h, hne]
  · simp [BitVec.getLsbD_of_ge _ _ (Nat.not_lt.1 h)]

@[simp] theorem acceptFlags_or_flagValue (c : Lane) {accepted : Lane} (b : Bool) {k : Nat} (i : Instr)
    (hacc : accepted.getLsbD k = true) :
    acceptFlags (c ||| flagValue b k) accepted i = acceptFlags c accepted i := by
  have hout : (0x7F00 &&& ~~~accepted : Lane).getLsbD k = false := by simp [hacc]
  unfold acceptFlags
  rw [BitVec.and_assoc, BitVec.and_assoc, BitVec.and_or_distrib_right, flagValue_and b hout, BitVec.or_zero]

@[simp] theorem acceptFlags_of_accepted {c accepted : Lane} (h : c &&& 0x7F00 &&& ~~~accepted = 0) (i : Instr) :
    acceptFlags c accepted i = .ok i :=
  if_pos h

theorem acceptFlags_eq_ok_iff {c accepted : Lane} {i j : Instr} :
    acceptFlags c accepted i = .ok j ↔ c &&& 0x7F00 &&& ~~~accepted = 0 ∧ i = j := by
  unfold acceptFlags
  split
  case isTrue h => exact ⟨fun hij => ⟨h, Except.ok.inj hij⟩, fun ⟨_, hij⟩ => congrArg _ hij⟩
  case isFalse h => exact ⟨nofun, fun ⟨hc, _⟩ => absurd hc h⟩

/-- Settles O1: the encoding adds accepted flags to the op code. Each leaves the reserved bits, the op field and the flag
check as they are, and the decoder reads it back (`getElem_flagValue`). -/
theorem everyInstructionDecodesFromItsEncoding : Obligations.EveryInstructionDecodesFromItsEncoding := by
  intro i
  cases i with
  | adler32 | crc32 | b64enc | b64dec | vlqenc | vlqdec | sha1 | pngrgba => rfl
  | b2u8 | b2i8 | b2u16 | b2i16 | b2u32 | b2i32 | b2u64 | b2i64 | u8tob | i8tob | u16tob | i16tob | u32tob | i32tob
  | u64tob | i64tob | b2f32 | b2f64 | f32tob | f64tob =>
    simp [encode, decode, decodeOp, flagLE]
  | utf8B2c | utf8C2b =>
    simp [encode, decode, decodeOp, flagSTRICT, flagALLOW_OVERLONG, flagALLOW_SURR, flagBOM]
  | utf16B2c | utf16C2b | utf32B2c | utf32C2b =>
    simp [encode, decode, decodeOp, flagLE, flagSTRICT, flagALLOW_SURR, flagBOM]
  | wsenc | wsdec =>
    simp [encode, decode, decodeOp, flagNOMASK, flagHASMASK]

/-- Settles O4: each word is the encoding of its instruction. -/
theorem writtenOutWordsDecode : Obligations.WrittenOutWordsDecode :=
  have decodes := everyInstructionDecodesFromItsEncoding
  ⟨decodes .crc32, decodes .vlqdec, decodes (.b2u32 true), decodes (.f32tob true), decodes .sha1,
    decodes (.utf8B2c true false false true), decodes (.utf16C2b true false false true), decodes .pngrgba,
    decodes (.wsenc true true), decodes (.wsdec true)⟩

/-! ### The rows of the op table -/

/-- The three checks of R76 against one row of the op table. -/
def OpRow.Admits (r : OpRow) (c : Lane) : Prop :=
  c >>> 15 = 0 ∧ c &&& 0xFF = r.op ∧ c &&& 0x7F00 &&& ~~~r.accepted = 0

/-- No row has a bit out of its field: the op codes lie in bits 7 to 0, the accepted flags in bits 14 to 8 (R71). -/
theorem opRows_fields : ∀ r ∈ opRows,
    r.op &&& 0xFF = r.op ∧ r.op &&& 0x7F00 = 0 ∧ r.op >>> 15 = 0 ∧ r.op &&& ~~~r.accepted = r.op ∧
    r.accepted &&& 0xFF = 0 ∧ r.accepted >>> 15 = 0 := by
  decide

/-- The op codes of the table are distinct (R75). -/
theorem opRows_eq_of_op_eq : ∀ r ∈ opRows, ∀ q ∈ opRows, r.op = q.op → r = q := by
  decide

theorem eq_low_or_flags_of_reserved_clear {c : Lane} (h : c >>> 15 = 0) : c = c &&& 0xFF ||| c &&& 0x7F00 := by
  rw [← BitVec.and_or_distrib_left]
  apply BitVec.eq_of_toNat_eq
  have hlt : c.toNat < 2 ^ 15 := by bv_omega
  exact ((Nat.and_two_pow_sub_one_eq_mod c.toNat 15).trans (Nat.mod_eq_of_lt hlt)).symm

theorem eq_or_and_of_and_not_eq {c accepted op : Lane} (h : c &&& ~~~accepted = op) : c = op ||| c &&& accepted := by
  rw [← h, ← BitVec.and_or_distrib_left, BitVec.or_comm, BitVec.or_not_self, BitVec.and_allOnes]

/-- R76's second form: the three checks against a row are its match and mask. -/
theorem OpRow.admits_iff {r : OpRow} (hr : r ∈ opRows) (c : Lane) : r.Admits c ↔ c &&& ~~~r.accepted = r.op := by
  obtain ⟨hop, hopflags, hopres, hopout, hacc, haccres⟩ := opRows_fields r hr
  refine ⟨fun ⟨hres, hlow, hflags⟩ => ?_, fun h => ⟨?res, ?low, ?flags⟩⟩
  · rw [eq_low_or_flags_of_reserved_clear hres, BitVec.and_or_distrib_right, hlow, hflags, hopout]
    exact BitVec.or_zero
  case res =>
    rw [eq_or_and_of_and_not_eq h, BitVec.ushiftRight_or_distrib, BitVec.ushiftRight_and_distrib, hopres, haccres]
    exact BitVec.zero_or.trans BitVec.and_zero
  case low =>
    rw [eq_or_and_of_and_not_eq h, BitVec.and_or_distrib_right, BitVec.and_assoc, hop, hacc]
    exact (congrArg _ BitVec.and_zero).trans BitVec.or_zero
  case flags =>
    rw [BitVec.and_assoc, BitVec.and_comm 0x7F00, ← BitVec.and_assoc, h, hopflags]

theorem legalWord_iff (c : Lane) : legalWord c = true ↔ ∃ r ∈ opRows, r.Admits c := by
  simp only [legalWord, reservedBitsClear, opDefined, flagsAccepted, Bool.and_eq_true, beq_iff_eq, List.any_eq_true,
    List.all_eq_true, Bool.or_eq_true, bne_iff_ne]
  constructor
  · rintro ⟨⟨hres, r, hr, hlow⟩, hall⟩
    exact ⟨r, hr, hres, hlow, (hall r hr).resolve_left (not_not_intro hlow)⟩
  · rintro ⟨r, hr, hres, hlow, hflags⟩
    refine ⟨⟨hres, r, hr, hlow⟩, fun q hq => or_iff_not_imp_left.2 fun hne => ?_⟩
    obtain rfl := opRows_eq_of_op_eq r hr q hq (hlow.symm.trans (not_not.1 hne))
    exact hflags

/-! ### The decoder against the table -/

theorem and_low_eq_iff (c op : Lane) : c &&& 0xFF = op ↔ opField c = op.toNat := by
  rw [opField_eq, BitVec.toNat_inj]

/-- Everything the decoder of the OP field can do: on a defined OP value it checks the flags of that row and gives an
instruction whose encoding is the op code with the accepted flags of the word, on any other it answers the error. -/
theorem decodeOp_cases (c : Lane) :
    (∃ r ∈ opRows, c &&& 0xFF = r.op ∧
      ∃ i, decodeOp c = acceptFlags c r.accepted i ∧ encode i = r.op ||| c &&& r.accepted) ∨
    ((∀ r ∈ opRows, c &&& 0xFF ≠ r.op) ∧ decodeOp c = .error .reservedOp) := by
  have hlow : c &&& 0xFF = BitVec.ofNat 64 (opField c) := by rw [opField_eq, BitVec.ofNat_toNat, BitVec.setWidth_eq]
  unfold decodeOp
  split
  case h_37 =>
    refine .inr ⟨?_, rfl⟩
    simp only [ne_eq, and_low_eq_iff, opRows, List.forall_mem_append, List.forall_mem_cons, List.not_mem_nil,
      false_imp_iff, implies_true, and_true]
    and_intros <;> assumption
  all_goals
    rename_i h
    rw [h] at hlow
    refine .inl ⟨⟨_, _⟩, ?_, hlow, _, rfl, ?_⟩
    · decide
    · simp [encode, flagLE, flagSTRICT, flagALLOW_OVERLONG, flagALLOW_SURR, flagBOM, flagNOMASK, flagHASMASK,
        flagValue_getElem, BitVec.or_assoc, ← BitVec.and_or_distrib_left]

theorem OpRow.Admits.exists_decode {r : OpRow} {c : Lane} (h : r.Admits c) (hr : r ∈ opRows) :
    ∃ i, decode c = .ok i := by
  obtain ⟨hres, hlow, hflags⟩ := h
  rw [decode, if_pos hres]
  rcases decodeOp_cases c with ⟨q, hq, hqlow, i, hdec, -⟩ | ⟨hnone, -⟩
  · obtain rfl := opRows_eq_of_op_eq r hr q hq (hlow.symm.trans hqlow)
    exact ⟨i, hdec.trans (acceptFlags_of_accepted hflags i)⟩
  · exact absurd hlow (hnone r hr)

/-- The inversion lemma of the decoder: the row that admits the word, and how the instruction's encoding is made of that
row and the word's accepted flags. -/
theorem admits_of_decode {c : Lane} {i : Instr} (h : decode c = .ok i) :
    ∃ r ∈ opRows, r.Admits c ∧ encode i = r.op ||| c &&& r.accepted := by
  unfold decode at h
  split at h
  case isFalse => exact nomatch h
  case isTrue hres =>
    rcases decodeOp_cases c with ⟨r, hr, hlow, j, hdec, henc⟩ | ⟨-, herr⟩
    · obtain ⟨hflags, rfl⟩ := acceptFlags_eq_ok_iff.1 (hdec.symm.trans h)
      exact ⟨r, hr, ⟨hres, hlow, hflags⟩, henc⟩
    · exact nomatch herr.symm.trans h

theorem exists_decode_eq_ok_iff (c : Lane) : (∃ i, decode c = .ok i) ↔ ∃ r ∈ opRows, r.Admits c := by
  refine ⟨fun ⟨i, hi⟩ => ?_, fun ⟨r, hr, h⟩ => h.exists_decode hr⟩
  obtain ⟨r, hr, hadm, -⟩ := admits_of_decode hi
  exact ⟨r, hr, hadm⟩

/-- Settles O2: the row that admits the word splits it into the op code and the accepted flags, and so does the encoding
of what it decodes to. -/
theorem decodedWordsAreEncodings : Obligations.DecodedWordsAreEncodings := by
  intro c i h
  obtain ⟨r, hr, hadm, henc⟩ := admits_of_decode h
  rw [henc]
  exact eq_or_and_of_and_not_eq ((OpRow.admits_iff hr c).1 hadm)

/-- Settles O3: the checks, the decoder and the match and mask each say that some row of the table admits the word. -/
theorem decoderAcceptsExactlyTheLegalWords : Obligations.DecoderAcceptsExactlyTheLegalWords := by
  intro c
  rw [legalWord_iff]
  exact ⟨(exists_decode_eq_ok_iff c).symm, exists_congr fun r => and_congr_right fun hr => OpRow.admits_iff hr c⟩

end Sys2Proof
end

section
/-! PROOFS. The statements on the checksums (40_checksums.md). Each engine is a fold over the bytes; a state's bytes are
taken one more at a time, so that the fold's intermediate values are the sequences that the rules speak of. -/

namespace Sys2Proof.Machine

/-! ### The byte sequence and the result word -/

/-- The values of the first `k` bytes of the input sequence (R27). -/
def State.bytesUpTo (s : State) (k : Nat) : List Nat := (List.range k).map s.byteAt

theorem State.bytesUpTo_succ (s : State) (k : Nat) : s.bytesUpTo (k + 1) = s.bytesUpTo k ++ [s.byteAt k] := by
  simp [State.bytesUpTo, List.range_succ]

/-- The whole input sequence is its first ILEN bytes (R17). -/
theorem State.byteInput_input_toNat (s : State) : (byteInput s.input).map BitVec.toNat = s.bytesUpTo s.ilen.toNat :=
  s.byteValues_eq.symm

theorem wordLane_eq_ofNat (w : Word32) : wordLane w = BitVec.ofNat 64 w.toNat := by
  apply BitVec.eq_of_toNat_eq
  simp [wordLane]

/-! ### ADLER32 -/

/-- One byte of R101 on the pair of sums: the new `a` goes into `b`. -/
def adlerStep (p : Nat × Nat) (x : Nat) : Nat × Nat :=
  ((p.1 + x) % 65521, (p.2 + (p.1 + x) % 65521) % 65521)

/-- The two sums after the bytes with values `xs`, from 1 and 0 on (R101). -/
def adlerSums (xs : List Nat) : Nat × Nat := xs.foldl adlerStep (1, 0)

theorem adlerSums_append_singleton (xs : List Nat) (x : Nat) : adlerSums (xs ++ [x]) = adlerStep (adlerSums xs) x := by
  simp [adlerSums]

theorem adlerFrom_eq (bs : List Byte) (a b : Nat) :
    adlerFrom a b bs =
      BitVec.ofNat 32 (((bs.map BitVec.toNat).foldl adlerStep (a, b)).2 <<< 16 |||
        ((bs.map BitVec.toNat).foldl adlerStep (a, b)).1) := by
  induction bs generalizing a b with
  | nil => rfl
  | cons x t ih => simp only [adlerFrom, forceNat_eq, ih, List.map_cons, List.foldl_cons, adlerStep]

/-- Each value counted once for every position from its own to the end. -/
def weightedSum (xs : List Nat) : Nat := ((List.range xs.length).map fun k => (xs.length - k) * xs.getD k 0).sum

theorem weightedSum_cons (x : Nat) (t : List Nat) : weightedSum (x :: t) = (t.length + 1) * x + weightedSum t := by
  simp [weightedSum, List.range_succ_eq_map, Function.comp_def]

/-- The weights on the bytes themselves. -/
theorem weightedSum_map_toNat (bs : List Byte) :
    weightedSum (bs.map BitVec.toNat) =
      ((List.range bs.length).map fun k => (bs.length - k) * (bs.getD k 0).toNat).sum := by
  have hget (k : Nat) : (bs.map BitVec.toNat).getD k 0 = (bs.getD k 0).toNat := List.getD_map (d := (0 : Byte)) ..
  simp only [weightedSum, List.length_map, hget]

/-- Reducing at every byte is the same as reducing once at the end, whatever the sums begin with (R101): a byte that
comes first enters `b` with every byte from it on, and so does the first `a`. -/
theorem foldl_adlerStep (xs : List Nat) (a b : Nat) :
    xs.foldl adlerStep (a % 65521, b % 65521) =
      ((a + xs.sum) % 65521, (b + xs.length * a + weightedSum xs) % 65521) := by
  induction xs generalizing a b with
  | nil => simp [weightedSum]
  | cons x t ih =>
    have hstep : adlerStep (a % 65521, b % 65521) x = ((a + x) % 65521, (b + (a + x)) % 65521) := by
      simp [adlerStep]
    have ha : a + x + t.sum = a + (x :: t).sum := by simp [Nat.add_assoc]
    have hb : b + (a + x) + t.length * (a + x) + weightedSum t =
        b + (x :: t).length * a + weightedSum (x :: t) := by
      rw [weightedSum_cons, List.length_cons]
      ring
    rw [List.foldl_cons, hstep, ih, ha, hb]

theorem adlerSums_eq (xs : List Nat) :
    adlerSums xs = ((1 + xs.sum) % 65521, (xs.length + weightedSum xs) % 65521) := by
  simpa [adlerSums] using foldl_adlerStep xs 1 0

theorem adlerSums_lt (xs : List Nat) : (adlerSums xs).1 < 65521 ∧ (adlerSums xs).2 < 65521 := by
  rw [adlerSums_eq]
  exact ⟨Nat.mod_lt _ (by decide), Nat.mod_lt _ (by decide)⟩

/-- The two sums fill the two halves of the word without overlap (R101). -/
theorem adler32_toNat (bs : List Byte) :
    (adler32 bs).toNat =
      (adlerSums (bs.map BitVec.toNat)).2 * 65536 + (adlerSums (bs.map BitVec.toNat)).1 := by
  obtain ⟨ha, hb⟩ := adlerSums_lt (bs.map BitVec.toNat)
  rw [adler32, adlerFrom_eq, ← adlerSums, ← Nat.shiftLeft_add_eq_or_of_lt (by omega), Nat.shiftLeft_eq,
    BitVec.toNat_ofNat]
  omega

/-- Settles O25: `a` and `b` at `k` are the two sums after the first `k` bytes. -/
theorem adler32Result : Obligations.Adler32Result := by
  intro s hready
  refine ⟨fun k => (adlerSums (s.bytesUpTo k)).1, fun k => (adlerSums (s.bytesUpTo k)).2, rfl, rfl,
    fun k _ => ?_, ?_⟩
  · simp only [State.bytesUpTo_succ, adlerSums_append_singleton, adlerStep, and_self]
  · rw [exec_eq, State.runOp_ok hready rfl (Nat.zero_le _), wordLane_eq_ofNat, adler32_toNat,
      State.byteInput_input_toNat]

/-- Settles O26: the word's two halves are the two sums, and those have the closed form `adlerSums_eq`. -/
theorem adler32DeferredReductionsAgree : Obligations.Adler32DeferredReductionsAgree := by
  intro bs
  rw [adler32_toNat, adlerSums_eq, weightedSum_map_toNat, List.length_map]

/-! ### CRC32, the bitwise form -/

theorem crcFrom_eq_foldl (bs : List Byte) (c : Word32) : crcFrom c bs = bs.foldl crcByte c := by
  induction bs generalizing c with
  | nil => rfl
  | cons x t ih => rw [crcFrom, forceWord_eq, ih, List.foldl_cons]

theorem crcStep_of_bit_clear {c : Word32} (h : c.getLsbD 0 = false) : crcStep c = c >>> 1 := by
  rw [crcStep, h]
  rfl

theorem crcStep_of_bit_set {c : Word32} (h : c.getLsbD 0 = true) : crcStep c = (c >>> 1) ^^^ 0xEDB88320 := by
  rw [crcStep, h]
  rfl

/-- The bit that a bit step shifts out is the number's remainder (R103). -/
theorem crcStep_toNat (c : Word32) : (crcStep c).toNat = crcShift c.toNat := by
  have hbit : c.getLsbD 0 = decide (c.toNat % 2 = 1) := Nat.testBit_zero c.toNat
  rw [crcShift]
  split
  case isTrue h => simp [crcStep_of_bit_set (hbit.trans (decide_eq_true h)), Nat.shiftRight_eq_div_pow]
  case isFalse h => simp [crcStep_of_bit_clear (hbit.trans (decide_eq_false h)), Nat.shiftRight_eq_div_pow]

theorem crcSteps_toNat (k : Nat) (c : Word32) : (crcSteps k c).toNat = crcShift^[k] c.toNat := by
  induction k generalizing c with
  | zero => rfl
  | succ k ih => rw [crcSteps, ih, crcStep_toNat, Function.iterate_succ_apply]

/-- One byte of R104 on numbers. -/
def crcByteShift (c x : Nat) : Nat := crcShift^[8] (c ^^^ x)

theorem crcByte_toNat (c : Word32) (x : Byte) : (crcByte c x).toNat = crcByteShift c.toNat x.toNat := by
  rw [crcByte, crcSteps_toNat, crcByteShift, BitVec.toNat_xor, BitVec.toNat_setWidth_of_le (by decide)]

theorem foldl_crcByte_toNat (bs : List Byte) (c : Word32) :
    (bs.foldl crcByte c).toNat = (bs.map BitVec.toNat).foldl crcByteShift c.toNat := by
  induction bs generalizing c with
  | nil => rfl
  | cons x t ih => rw [List.foldl_cons, ih, crcByte_toNat, List.map_cons, List.foldl_cons]

/-- The working register after the bytes with values `xs`, from the complemented seed on (R104). -/
def crcRegister (xs : List Nat) : Nat := xs.foldl crcByteShift 0xFFFFFFFF

theorem crcRegister_append_singleton (xs : List Nat) (x : Nat) :
    crcRegister (xs ++ [x]) = crcByteShift (crcRegister xs) x := by
  simp [crcRegister]

theorem crc32_toNat (bs : List Byte) : (crc32 bs).toNat = crcRegister (bs.map BitVec.toNat) ^^^ 0xFFFFFFFF := by
  rw [crc32, crcFrom_eq_foldl, BitVec.toNat_xor, foldl_crcByte_toNat]
  rfl

/-- Settles O27: `c` at `k` is the working register after the first `k` bytes. -/
theorem crc32Result : Obligations.Crc32Result := by
  intro s hready
  refine ⟨fun k => crcRegister (s.bytesUpTo k), rfl, fun k _ => ?_, ?_⟩
  · simp only [State.bytesUpTo_succ, crcRegister_append_singleton, crcByteShift]
  · rw [exec_eq, State.runOp_ok hready rfl (Nat.zero_le _), wordLane_eq_ofNat, crc32_toNat,
      State.byteInput_input_toNat]

/-! ### CRC32, the table form -/

/-- The bit step is linear: the polynomial that both parts apply cancels. -/
theorem crcStep_xor (c d : Word32) : crcStep (c ^^^ d) = crcStep c ^^^ crcStep d := by
  have hbit : (c ^^^ d).getLsbD 0 = (c.getLsbD 0 ^^ d.getLsbD 0) := BitVec.getLsbD_xor
  have hshift : (c ^^^ d) >>> 1 = c >>> 1 ^^^ d >>> 1 := BitVec.ushiftRight_xor_distrib ..
  cases hc : c.getLsbD 0 <;> cases hd : d.getLsbD 0 <;> rw [hc, hd] at hbit
  case false.false => rw [crcStep_of_bit_clear hbit, crcStep_of_bit_clear hc, crcStep_of_bit_clear hd, hshift]
  case false.true =>
    rw [crcStep_of_bit_set hbit, crcStep_of_bit_clear hc, crcStep_of_bit_set hd, hshift, BitVec.xor_assoc]
  case true.false =>
    rw [crcStep_of_bit_set hbit, crcStep_of_bit_set hc, crcStep_of_bit_clear hd, hshift]
    ac_rfl
  case true.true =>
    rw [crcStep_of_bit_clear hbit, crcStep_of_bit_set hc, crcStep_of_bit_set hd, hshift,
      BitVec.xor_comm (d >>> 1) 0xEDB88320, BitVec.xor_assoc, ← BitVec.xor_assoc 0xEDB88320, BitVec.xor_self,
      BitVec.zero_xor]

theorem crcSteps_xor (k : Nat) (c d : Word32) : crcSteps k (c ^^^ d) = crcSteps k c ^^^ crcSteps k d := by
  induction k generalizing c d with
  | zero => rfl
  | succ k ih => rw [crcSteps, crcStep_xor, ih, ← crcSteps, ← crcSteps]

/-- While the bits shifted out are 0 the polynomial is never applied. -/
theorem crcSteps_of_low_clear {k : Nat} {c : Word32} (h : ∀ j < k, c.getLsbD j = false) : crcSteps k c = c >>> k := by
  induction k generalizing c with
  | zero => simp [crcSteps]
  | succ k ih =>
    have hlow : ∀ j < k, (c >>> 1).getLsbD j = false := fun j hj => by
      rw [BitVec.getLsbD_ushiftRight]
      exact h _ (by omega)
    rw [crcSteps, crcStep_of_bit_clear (h 0 k.succ_pos), ih hlow, ← BitVec.shiftRight_add, Nat.add_comm]

/-- The register with a byte on it is its upper 24 bits and the table's index (R105). -/
theorem xor_byte_eq_high_xor_index (c : Word32) (x : Byte) :
    c ^^^ x.setWidth 32 = (c >>> 8 <<< 8) ^^^ (c.setWidth 8 ^^^ x).setWidth 32 := by
  apply BitVec.eq_of_getLsbD_eq
  intro j hj
  by_cases h : j < 8
  · simp [h, hj]
  · have hback : 8 + (j - 8) = j := by omega
    simp [h, hj, hback]

/-- The upper 24 bits pass through the eight bit steps as a shift, the index as its table entry (R105). -/
theorem crcTableByte_eq_crcByte (c : Word32) (x : Byte) : crcTableByte c x = crcByte c x := by
  have hlow : ∀ j < 8, (c >>> 8 <<< 8).getLsbD j = false := fun j hj => by simp [hj]
  have hhigh : c >>> 8 <<< 8 >>> 8 = c >>> 8 := by
    ext j hj
    grind
  rw [crcByte, xor_byte_eq_high_xor_index, crcSteps_xor, crcSteps_of_low_clear hlow, hhigh, ← crcTable, crcTableByte]

/-- Settles O28: the two forms agree at every byte (`crcTableByte_eq_crcByte`). -/
theorem crcTableFormAgrees : Obligations.CrcTableFormAgrees := by
  intro bs
  have hbyte : crcTableByte = crcByte := funext₂ crcTableByte_eq_crcByte
  rw [crc32Table, crc32, crcFrom_eq_foldl, hbyte]

end Sys2Proof.Machine
end

section
/-! PROOFS. The statements on base64 (41_base64.md). The codec goes group by group; `b64Encode_group` and
`b64Symbols_group` say in numbers what one group becomes, and everything else is induction over the groups. -/

namespace Sys2Proof.Machine

/-! ### The alphabet -/

/-- The model's alphabet and the rule's list are the same (R110). -/
theorem alphaOf_toNat : ∀ k < 64, (alphaOf k).toNat = alphabetAt k := by decide

theorem indexOf_alphaOf : ∀ k < 64, indexOf (alphaOf k) = some k := by decide

/-- The pad is no symbol (R110). -/
theorem indexOf_padSymbol : indexOf padSymbol = none := by decide

theorem indexOf_lt {c : Byte} {k : Nat} (h : indexOf c = some k) : k < 64 := by
  unfold indexOf at h
  grind

/-- Where a number stands in a run of consecutive ones. -/
theorem idxOf?_range' (a n c : Nat) :
    (List.range' a n).idxOf? c = if a ≤ c ∧ c < a + n then some (c - a) else none := by
  induction n generalizing a with
  | zero => simp
  | succ n ih =>
    rw [List.range'_succ, List.idxOf?_cons, ih]
    grind

theorem idxOf?_append (xs ys : List Nat) (c : Nat) :
    (xs ++ ys).idxOf? c = (xs.idxOf? c).or ((ys.idxOf? c).map (· + xs.length)) :=
  List.findIdx?_append

/-- `indexOf` is the position in the rule's list: its five cases are the list's three runs and its last two symbols. -/
theorem indexOf_eq_idxOf? (c : Byte) : indexOf c = base64Alphabet.idxOf? c.toNat := by
  simp only [indexOf, base64Alphabet, idxOf?_append, idxOf?_range', List.idxOf?_cons, List.idxOf?_nil, List.length_append,
    List.length_range']
  grind

/-! ### Byte sequences in and out -/

theorem map_byteLane (bs : List Byte) : bs.map byteLane = asLanes (bs.map BitVec.toNat) := by
  simp [asLanes, byteLane_eq_ofNat]

theorem bytePort_byteLane (b : Byte) : bytePort (byteLane b) = b := by
  simp [bytePort, byteLane]

/-- The byte port takes in again what the byte output port has put out (R27). -/
theorem byteInput_map_byteLane (bs : List Byte) : byteInput (bs.map byteLane) = bs := by
  simp [byteInput, Function.comp_def, bytePort_byteLane]

/-- A ready command whose op gives an output sequence that fits. -/
theorem exec_of_outputs {i : Instr} {s : State} {out : List Lane} (hop : opOf i s.arg0 s.arg1 s.input = outputs out)
    (hroom : s.roomFor out.length) : exec i s = .next (s.completed out 0 0 0 0 0) := by
  rw [exec_eq, State.runOp_ok hroom.1 hop hroom.2]

@[simp] theorem State.byteValues_length (s : State) : s.byteValues.length = s.ilen.toNat := by simp [State.byteValues]

theorem State.byteAt_eq (s : State) : s.byteAt = fun k => s.byteValues.getD k 0 := by
  funext k
  by_cases h : k < s.ilen.toNat
  · simp [State.byteValues, h]
  · simp [State.byteValues, State.byteAt, h]

theorem State.byteValues_lt (s : State) : ∀ x ∈ s.byteValues, x < 256 := by
  rw [State.byteValues_eq]
  intro x hx
  obtain ⟨b, -, rfl⟩ := List.mem_map.1 hx
  exact b.isLt

/-- The input bytes from their values. -/
theorem State.byteInput_input_eq (s : State) : byteInput s.input = s.byteValues.map (BitVec.ofNat 8) := by
  simp [State.byteValues_eq, Function.comp_def]

/-! ### Cutting numbers into bits -/

theorem shiftLeft_or_eq_mul_add (a : Nat) {b i : Nat} (h : b < 2 ^ i) : a <<< i ||| b = a * 2 ^ i + b := by
  rw [← Nat.shiftLeft_add_eq_or_of_lt h, Nat.shiftLeft_eq]

theorem and_three (x : Nat) : x &&& 3 = x % 4 := Nat.and_two_pow_sub_one_eq_mod x 2

theorem and_fifteen (x : Nat) : x &&& 15 = x % 16 := Nat.and_two_pow_sub_one_eq_mod x 4

theorem and_sixtyThree (x : Nat) : x &&& 63 = x % 64 := Nat.and_two_pow_sub_one_eq_mod x 6

/-- Three bytes as "one 24-bit number, first byte most significant" (R111). -/
def byteGroup (x y z : Nat) : Nat := x * 65536 + y * 256 + z

/-- Four symbol indices as one 24-bit number (R112). -/
def symbolGroup (p q t u : Nat) : Nat := p * 262144 + q * 4096 + t * 64 + u

/-- The bit cuts of B64ENC are the four six-bit indices of the group, most significant first (R111). -/
theorem indices_of_byteGroup {x y z : Nat} (hx : x < 256) (hy : y < 256) (hz : z < 256) :
    x >>> 2 = byteGroup x y z / 262144 % 64 ∧ (x &&& 3) <<< 4 ||| y >>> 4 = byteGroup x y z / 4096 % 64 ∧
    (y &&& 15) <<< 2 ||| z >>> 6 = byteGroup x y z / 64 % 64 ∧ z &&& 63 = byteGroup x y z % 64 := by
  rw [and_three, and_fifteen, and_sixtyThree, Nat.shiftRight_eq_div_pow, Nat.shiftRight_eq_div_pow,
    Nat.shiftRight_eq_div_pow, shiftLeft_or_eq_mul_add _ (by omega), shiftLeft_or_eq_mul_add _ (by omega), byteGroup]
  omega

/-- The bit cuts of B64DEC are the three bytes of the group, most significant first (R112). -/
theorem bytes_of_symbolGroup {p q t u : Nat} (hp : p < 64) (hq : q < 64) (ht : t < 64) (hu : u < 64) :
    p <<< 2 ||| q >>> 4 = symbolGroup p q t u / 65536 % 256 ∧
    (q &&& 15) <<< 4 ||| t >>> 2 = symbolGroup p q t u / 256 % 256 ∧
    (t &&& 3) <<< 6 ||| u = symbolGroup p q t u % 256 := by
  rw [and_three, and_fifteen, Nat.shiftRight_eq_div_pow, Nat.shiftRight_eq_div_pow,
    shiftLeft_or_eq_mul_add _ (by omega), shiftLeft_or_eq_mul_add _ (by omega),
    shiftLeft_or_eq_mul_add _ hu, symbolGroup]
  omega

/-! ### B64ENC -/

/-- One group of three bytes becomes four symbols (R111). -/
theorem b64Encode_group {x y z : Nat} (hx : x < 256) (hy : y < 256) (hz : z < 256) (t : List Nat) :
    b64Encode (x :: y :: z :: t) =
      alphaOf (byteGroup x y z / 262144 % 64) :: alphaOf (byteGroup x y z / 4096 % 64)
        :: alphaOf (byteGroup x y z / 64 % 64) :: alphaOf (byteGroup x y z % 64) :: b64Encode t := by
  obtain ⟨h0, h1, h2, h3⟩ := indices_of_byteGroup hx hy hz
  rw [b64Encode, h0, h1, h2, h3]

/-- A last group of two bytes is extended with zero bits and padded once (R111). -/
theorem b64Encode_two {x y : Nat} (hx : x < 256) (hy : y < 256) :
    b64Encode [x, y] =
      [alphaOf (byteGroup x y 0 / 262144 % 64), alphaOf (byteGroup x y 0 / 4096 % 64),
        alphaOf (byteGroup x y 0 / 64 % 64), padSymbol] := by
  obtain ⟨h0, h1, h2, -⟩ := indices_of_byteGroup hx hy (by decide : 0 < 256)
  rw [Nat.zero_shiftRight, Nat.or_zero] at h2
  rw [b64Encode, h0, h1, h2]

/-- A last group of one byte is extended with zero bits and padded twice (R111). -/
theorem b64Encode_one {x : Nat} (hx : x < 256) :
    b64Encode [x] =
      [alphaOf (byteGroup x 0 0 / 262144 % 64), alphaOf (byteGroup x 0 0 / 4096 % 64), padSymbol, padSymbol] := by
  obtain ⟨h0, h1, -, -⟩ := indices_of_byteGroup hx (by decide : 0 < 256) (by decide : 0 < 256)
  rw [Nat.zero_shiftRight, Nat.or_zero] at h1
  rw [b64Encode, h0, h1]

/-- The first group taken off, every position is four less. -/
theorem base64CharAt_add_four (x : Nat → Nat) (n j : Nat) :
    base64CharAt x (n + 3) (4 + j) = base64CharAt (fun k => x (k + 3)) n j := by
  have hdiv : (4 + j) / 4 = j / 4 + 1 := by omega
  have hmod : (4 + j) % 4 = j % 4 := by omega
  have hrest : n + 3 - 3 * (j / 4 + 1) = n - 3 * (j / 4) := by omega
  simp only [base64CharAt, hdiv, hmod, hrest]
  simp only [Nat.mul_add, Nat.mul_one, Nat.add_right_comm _ 3]

/-- The first four positions of the text of at least one byte (R111). -/
theorem base64CharAt_first_group (x : Nat → Nat) {n : Nat} (hn : 0 < n) :
    (List.range 4).map (base64CharAt x n) =
      [alphabetAt (byteGroup (x 0) (x 1) (x 2) / 262144 % 64), alphabetAt (byteGroup (x 0) (x 1) (x 2) / 4096 % 64),
        if n = 1 then 61 else alphabetAt (byteGroup (x 0) (x 1) (x 2) / 64 % 64),
        if n ≤ 2 then 61 else alphabetAt (byteGroup (x 0) (x 1) (x 2) % 64)] := by
  have h0 : ¬ n = 0 := by omega
  have h1 : ¬ 8 * n ≤ 6 := by omega
  have h2 : 8 * n ≤ 12 ↔ n = 1 := by omega
  have h3 : 8 * n ≤ 18 ↔ n ≤ 2 := by omega
  simp [List.range_succ, base64CharAt, byteGroup, h0, h1, h2, h3]

/-- B64ENC's text is the rule's, position by position. -/
theorem b64Encode_toNat (xs : List Nat) (hxs : ∀ x ∈ xs, x < 256) :
    (b64Encode xs).map BitVec.toNat =
      (List.range (4 * ((xs.length + 2) / 3))).map (base64CharAt (fun k => xs.getD k 0) xs.length) := by
  have hsymbol (k : Nat) : (alphaOf (k % 64)).toNat = alphabetAt (k % 64) := alphaOf_toNat _ (Nat.mod_lt _ (by decide))
  induction xs using b64Encode.induct with
  | case1 x y z t ih =>
    simp only [List.forall_mem_cons] at hxs
    obtain ⟨hx, hy, hz, ht⟩ := hxs
    have hlen : 4 * (((x :: y :: z :: t).length + 2) / 3) = 4 + 4 * ((t.length + 2) / 3) := by
      simp only [List.length_cons]
      omega
    have hrest : base64CharAt (fun k => (x :: y :: z :: t).getD k 0) (x :: y :: z :: t).length ∘ (4 + ·) =
        base64CharAt (fun k => t.getD k 0) t.length :=
      funext fun j => base64CharAt_add_four _ t.length j
    rw [hlen, List.range_add, List.map_append, List.map_map, hrest, ← ih ht, base64CharAt_first_group _ (by simp),
      b64Encode_group hx hy hz]
    simp [hsymbol]
  | case2 x y =>
    simp only [List.forall_mem_cons] at hxs
    have hfour : 4 * (([x, y].length + 2) / 3) = 4 := by simp
    rw [hfour, base64CharAt_first_group _ (by simp), b64Encode_two hxs.1 hxs.2.1]
    simp [hsymbol, padSymbol]
  | case3 x =>
    have hfour : 4 * (([x].length + 2) / 3) = 4 := by simp
    rw [hfour, base64CharAt_first_group _ (by simp), b64Encode_one (hxs x (by simp))]
    simp [hsymbol, padSymbol]
  | case4 => rfl

/-- What B64ENC gives for a state's bytes (R111). -/
theorem opOf_b64enc (s : State) (arg0 arg1 : Lane) :
    opOf .b64enc arg0 arg1 s.input = outputs ((b64Encode s.byteValues).map byteLane) := by
  rw [State.byteValues_eq]
  rfl

/-- Settles O29: the text is the rule's at every position (`b64Encode_toNat`). -/
theorem b64encResult : Obligations.B64encResult := by
  intro s hroom
  have hout : (b64Encode s.byteValues).map byteLane =
      laneTable (4 * ((s.ilen.toNat + 2) / 3)) (base64CharAt s.byteAt s.ilen.toNat) := by
    rw [map_byteLane, b64Encode_toNat _ s.byteValues_lt, State.byteAt_eq, State.byteValues_length, asLanes, laneTable,
      List.map_map]
    rfl
  have hop := opOf_b64enc s s.arg0 s.arg1
  rw [hout] at hop
  exact exec_of_outputs hop (by simpa [laneTable] using hroom)

/-! ### B64DEC -/

/-- One group of four symbols becomes three bytes (R112). -/
theorem b64Symbols_group {p q t u : Nat} (hp : p < 64) (hq : q < 64) (ht : t < 64) (hu : u < 64) (rest : List Nat) :
    b64Symbols (p :: q :: t :: u :: rest) =
      BitVec.ofNat 8 (symbolGroup p q t u / 65536 % 256) :: BitVec.ofNat 8 (symbolGroup p q t u / 256 % 256)
        :: BitVec.ofNat 8 (symbolGroup p q t u % 256) :: b64Symbols rest := by
  obtain ⟨h0, h1, h2⟩ := bytes_of_symbolGroup hp hq ht hu
  rw [b64Symbols, h0, h1, h2]

/-- "a last group of ... 3 symbols 2 bytes" (R112). -/
theorem b64Symbols_three {p q t : Nat} (hp : p < 64) (hq : q < 64) (ht : t < 64) :
    b64Symbols [p, q, t] =
      [BitVec.ofNat 8 (symbolGroup p q t 0 / 65536 % 256), BitVec.ofNat 8 (symbolGroup p q t 0 / 256 % 256)] := by
  obtain ⟨h0, h1, -⟩ := bytes_of_symbolGroup hp hq ht (by decide : 0 < 64)
  rw [b64Symbols, h0, h1]

/-- "a last group of 2 symbols gives 1 byte" (R112). -/
theorem b64Symbols_two {p q : Nat} (hp : p < 64) (hq : q < 64) :
    b64Symbols [p, q] = [BitVec.ofNat 8 (symbolGroup p q 0 0 / 65536 % 256)] := by
  obtain ⟨h0, -, -⟩ := bytes_of_symbolGroup hp hq (by decide : 0 < 64) (by decide : 0 < 64)
  rw [b64Symbols, h0]

/-- The first group taken off, every position is three less. -/
theorem base64ByteAt_add_three (p q t u : Nat) (rest : List Nat) (j : Nat) :
    base64ByteAt (p :: q :: t :: u :: rest) (3 + j) = base64ByteAt rest j := by
  have hdiv : (3 + j) / 3 = j / 3 + 1 := by omega
  have hmod : (3 + j) % 3 = j % 3 := by omega
  simp only [base64ByteAt, hdiv, hmod]
  simp only [Nat.mul_add, Nat.mul_one, Nat.add_right_comm _ 4, List.getD_cons_succ]

/-- The first three positions (R112). -/
theorem base64ByteAt_first_group (y : List Nat) :
    (List.range 3).map (base64ByteAt y) =
      [symbolGroup (y.getD 0 0) (y.getD 1 0) (y.getD 2 0) (y.getD 3 0) / 65536 % 256,
        symbolGroup (y.getD 0 0) (y.getD 1 0) (y.getD 2 0) (y.getD 3 0) / 256 % 256,
        symbolGroup (y.getD 0 0) (y.getD 1 0) (y.getD 2 0) (y.getD 3 0) % 256] := by
  simp [List.range_succ, base64ByteAt, symbolGroup]

/-- B64DEC's bytes are the rule's, position by position. -/
theorem b64Symbols_toNat (ys : List Nat) (hys : ∀ y ∈ ys, y < 64) :
    (b64Symbols ys).map BitVec.toNat = (List.range (ys.length * 3 / 4)).map (base64ByteAt ys) := by
  induction ys using b64Symbols.induct with
  | case1 p q t u rest ih =>
    simp only [List.forall_mem_cons] at hys
    obtain ⟨hp, hq, ht, hu, hrest⟩ := hys
    have hlen : (p :: q :: t :: u :: rest).length * 3 / 4 = 3 + rest.length * 3 / 4 := by
      simp only [List.length_cons]
      omega
    rw [hlen, List.range_add, List.map_append, List.map_map, base64ByteAt_first_group, b64Symbols_group hp hq ht hu]
    simp [ih hrest, Function.comp_def, base64ByteAt_add_three]
  | case2 p q t =>
    simp only [List.forall_mem_cons] at hys
    obtain ⟨hp, hq, ht, -⟩ := hys
    have hgroup := congrArg (List.take 2) (base64ByteAt_first_group [p, q, t])
    rw [b64Symbols_three hp hq ht]
    simpa [List.range_succ] using hgroup.symm
  | case3 p q =>
    simp only [List.forall_mem_cons] at hys
    obtain ⟨hp, hq, -⟩ := hys
    have hgroup := congrArg (List.take 1) (base64ByteAt_first_group [p, q])
    rw [b64Symbols_two hp hq]
    simpa [List.range_succ] using hgroup.symm
  | case4 p => simp [b64Symbols]
  | case5 => rfl

/-- The symbols of a byte sequence are the rule's, and each is an index of the alphabet (R112). -/
theorem base64Symbols_byteValues (s : State) : base64Symbols s.byteValues = (byteInput s.input).filterMap indexOf := by
  rw [base64Symbols, State.byteValues_eq, List.filterMap_map]
  congr 1
  funext c
  exact (indexOf_eq_idxOf? c).symm

theorem base64Symbols_byteValues_lt (s : State) : ∀ y ∈ base64Symbols s.byteValues, y < 64 := by
  rw [base64Symbols_byteValues]
  intro y hy
  obtain ⟨c, -, hc⟩ := List.mem_filterMap.1 hy
  exact indexOf_lt hc

/-- Settles O30: the bytes are the rule's at every position (`b64Symbols_toNat`). -/
theorem b64decResult : Obligations.B64decResult := by
  intro s hroom
  have hout : (b64Decode (byteInput s.input)).map byteLane =
      laneTable ((base64Symbols s.byteValues).length * 3 / 4) (base64ByteAt (base64Symbols s.byteValues)) := by
    rw [map_byteLane, b64Decode, ← base64Symbols_byteValues, b64Symbols_toNat _ (base64Symbols_byteValues_lt s), asLanes,
      laneTable, List.map_map]
    rfl
  have hop : opOf .b64dec s.arg0 s.arg1 s.input = outputs ((b64Decode (byteInput s.input)).map byteLane) := rfl
  rw [hout] at hop
  exact exec_of_outputs hop (by simpa [laneTable] using hroom)

/-! ### The round trip -/

/-- The four indices cut from a group of bytes make up the same 24-bit number. -/
theorem symbolGroup_indices {x y z : Nat} (hx : x < 256) (hy : y < 256) (hz : z < 256) :
    symbolGroup (byteGroup x y z / 262144 % 64) (byteGroup x y z / 4096 % 64) (byteGroup x y z / 64 % 64)
      (byteGroup x y z % 64) = byteGroup x y z := by
  have hlt : byteGroup x y z < 16777216 := by
    rw [byteGroup]
    omega
  rw [symbolGroup]
  omega

theorem bytes_of_byteGroup {x y z : Nat} (hx : x < 256) (hy : y < 256) (hz : z < 256) :
    byteGroup x y z / 65536 % 256 = x ∧ byteGroup x y z / 256 % 256 = y ∧ byteGroup x y z % 256 = z := by
  rw [byteGroup]
  omega

/-- A symbol of the alphabet is kept, whatever follows. -/
theorem filterMap_indexOf_alphaOf (k : Nat) (t : List Byte) :
    (alphaOf (k % 64) :: t).filterMap indexOf = k % 64 :: t.filterMap indexOf :=
  List.filterMap_cons_some (indexOf_alphaOf _ (Nat.mod_lt _ (by decide)))

/-- A pad is left out, wherever it stands. -/
theorem filterMap_indexOf_padSymbol (t : List Byte) :
    (padSymbol :: t).filterMap indexOf = t.filterMap indexOf :=
  List.filterMap_cons_none indexOf_padSymbol

/-- B64DEC undoes B64ENC on bytes (R113): the pads are left out, and each group of symbols is the group of bytes. -/
theorem b64Decode_b64Encode (xs : List Nat) (hxs : ∀ x ∈ xs, x < 256) :
    b64Decode (b64Encode xs) = xs.map (BitVec.ofNat 8) := by
  have hindex (k : Nat) : k % 64 < 64 := Nat.mod_lt _ (by decide)
  induction xs using b64Encode.induct with
  | case1 x y z t ih =>
    simp only [List.forall_mem_cons] at hxs
    obtain ⟨hx, hy, hz, ht⟩ := hxs
    obtain ⟨h0, h1, h2⟩ := bytes_of_byteGroup hx hy hz
    rw [b64Encode_group hx hy hz, b64Decode]
    simp only [filterMap_indexOf_alphaOf]
    rw [b64Symbols_group (hindex _) (hindex _) (hindex _) (hindex _), symbolGroup_indices hx hy hz, h0, h1, h2,
      ← b64Decode, ih ht]
    rfl
  | case2 x y =>
    simp only [List.forall_mem_cons] at hxs
    obtain ⟨hx, hy, -⟩ := hxs
    obtain ⟨h0, h1, -⟩ := bytes_of_byteGroup hx hy (by decide : 0 < 256)
    have hgroup := symbolGroup_indices hx hy (by decide : 0 < 256)
    have hlast : byteGroup x y 0 % 64 = 0 := by
      rw [byteGroup]
      omega
    rw [hlast] at hgroup
    rw [b64Encode_two hx hy, b64Decode]
    simp only [filterMap_indexOf_alphaOf, filterMap_indexOf_padSymbol, List.filterMap_nil]
    rw [b64Symbols_three (hindex _) (hindex _) (hindex _), hgroup, h0, h1]
    rfl
  | case3 x =>
    have hx : x < 256 := hxs x (by simp)
    obtain ⟨h0, -, -⟩ := bytes_of_byteGroup hx (by decide : 0 < 256) (by decide : 0 < 256)
    have hgroup := symbolGroup_indices hx (by decide : 0 < 256) (by decide : 0 < 256)
    have hlast : byteGroup x 0 0 / 64 % 64 = 0 ∧ byteGroup x 0 0 % 64 = 0 := by
      rw [byteGroup]
      omega
    rw [hlast.1, hlast.2] at hgroup
    rw [b64Encode_one hx, b64Decode]
    simp only [filterMap_indexOf_alphaOf, filterMap_indexOf_padSymbol, List.filterMap_nil]
    rw [b64Symbols_two (hindex _) (hindex _), hgroup, h0]
    rfl
  | case4 => rfl

/-- The whole text has four symbols for each group of three bytes, the last one included (R111). -/
theorem b64Encode_length (xs : List Nat) (hxs : ∀ x ∈ xs, x < 256) :
    (b64Encode xs).length = 4 * ((xs.length + 2) / 3) := by
  simpa using congrArg List.length (b64Encode_toNat xs hxs)

/-- What a ready command puts out is the input of the command it is fed to (R285). -/
theorem input_of_feedsInto {i : Instr} {s t u : State} {out : List Lane}
    (hop : opOf i s.arg0 s.arg1 s.input = outputs out) (hroom : s.roomFor out.length) (ht : exec i s = .next t)
    (hfeed : FeedsInto t u) : u.input = out := by
  obtain rfl := Host.Outcome.next.inj ((exec_of_outputs hop hroom).symm.trans ht)
  rw [hfeed, State.completed_output _ _ _ _ _ _ _ hroom.2]

/-- Settles O31: the bytes come back (`b64Decode_b64Encode`), through the output port and the input port. -/
theorem base64RoundTrip : Obligations.Base64RoundTrip := by
  intro s t u hroom ht hfeed hroom'
  have hbytes := s.byteValues_lt
  have hin : u.input = (b64Encode s.byteValues).map byteLane :=
    input_of_feedsInto (opOf_b64enc s s.arg0 s.arg1) (by simpa [b64Encode_length _ hbytes] using hroom) ht hfeed
  have hback : (b64Decode (byteInput u.input)).map byteLane = asLanes s.byteValues := by
    rw [hin, byteInput_map_byteLane, b64Decode_b64Encode _ hbytes, ← State.byteInput_input_eq, map_byteLane,
      ← State.byteValues_eq]
  have hop : opOf .b64dec u.arg0 u.arg1 u.input = outputs ((b64Decode (byteInput u.input)).map byteLane) := rfl
  rw [hback] at hop
  exact exec_of_outputs hop (by simpa [asLanes] using hroom')

end Sys2Proof.Machine
end

section
/-! PROOFS. The statements on base64-VLQ (41_base64.md). Both directions are followed quantum by quantum; the decoder's
loop is summed up for open quanta, for one whole integer, and for a sequence of whole integers that fit. -/

namespace Sys2Proof.Machine

/-! ### VLQENC -/

theorem and_thirtyOne (x : Nat) : x &&& 31 = x % 32 := Nat.and_two_pow_sub_one_eq_mod x 5

theorem shiftRight_five (x : Nat) : x >>> 5 = x / 32 := Nat.shiftRight_eq_div_pow x 5

/-- The sign bit is put below the magnitude without overlap (R114). -/
theorem vlqFold_eq (v : Int) : vlqFold v = foldedNumber v := by
  have hsign : (if v < 0 then 1 else 0) < 2 ^ 1 := by split <;> decide
  rw [vlqFold, shiftLeft_or_eq_mul_add _ hsign, foldedNumber, Nat.pow_one, Nat.mul_comm]

/-- A lane's magnitude is at most 2^63 (R115). -/
theorem natAbs_toInt_le (v : Lane) : v.toInt.natAbs ≤ 2 ^ 63 := by
  have hlo := BitVec.le_toInt v
  have hhi := BitVec.toInt_lt (x := v)
  omega

/-- Thirteen quanta hold the folded number of every lane (R115). -/
theorem foldedNumber_lt (v : Lane) : foldedNumber v.toInt < 32 ^ 13 := by
  have hmag := natAbs_toInt_le v
  rw [foldedNumber]
  split <;> omega

theorem vlqQuanta_last {u : Nat} (h : u < 32) (k : Nat) : vlqQuanta (k + 1) u = [u] := by
  have hzero : u / 32 = 0 := Nat.div_eq_of_lt h
  rw [vlqQuanta, shiftRight_five, if_pos hzero, and_thirtyOne, Nat.mod_eq_of_lt h]

/-- While there is more than one group, the lowest goes first, with the continuation flag (R114, R116). -/
theorem vlqQuanta_more {u : Nat} (h : 32 ≤ u) (k : Nat) :
    vlqQuanta (k + 1) u = (u % 32 + 32) :: vlqQuanta k (u / 32) := by
  have hpos : u / 32 ≠ 0 := by omega
  have hflag : u % 32 ||| 32 = u % 32 + 32 := by
    rw [Nat.or_comm, Nat.add_comm]
    exact (shiftLeft_or_eq_mul_add 1 (i := 5) (by omega))
  rw [vlqQuanta, shiftRight_five, if_neg hpos, and_thirtyOne, hflag]

/-- How many of the powers 32, 32^2, .. 32^k a number reaches. -/
def reachedPowers (k u : Nat) : Nat := ((List.range k).filter fun j => decide (32 ^ (j + 1) ≤ u)).length

theorem quantaCount_eq (u : Nat) : quantaCount u = reachedPowers 12 u + 1 := Nat.add_comm ..

theorem reachedPowers_of_lt {u : Nat} (h : u < 32) (k : Nat) : reachedPowers k u = 0 := by
  have hpow (j : Nat) : ¬ 32 ^ (j + 1) ≤ u := by
    have := Nat.one_le_pow j 32 (by decide)
    rw [Nat.pow_succ]
    omega
  simp [reachedPowers, hpow]

/-- The quotient by 32 reaches one power less. -/
theorem reachedPowers_succ {u : Nat} (h : 32 ≤ u) (k : Nat) : reachedPowers (k + 1) u = reachedPowers k (u / 32) + 1 := by
  have hpow (j : Nat) : 32 ^ (j + 1 + 1) ≤ u ↔ 32 ^ (j + 1) ≤ u / 32 := by
    rw [Nat.le_div_iff_mul_le (by decide), ← Nat.pow_succ]
  simp [reachedPowers, List.range_succ_eq_map, List.filter_map, Function.comp_def, h, hpow]

/-- Quantum `j` of a folded number: its five-bit group `j`, with the continuation flag on all but the last of `n`. -/
def quantumAt (n u j : Nat) : Nat := u / 32 ^ j % 32 + if j + 1 < n then 32 else 0

theorem quantumAt_succ (n u j : Nat) : quantumAt (n + 1) u (j + 1) = quantumAt n (u / 32) j := by
  simp only [quantumAt, Nat.pow_succ', Nat.div_div_eq_div_mul, Nat.add_lt_add_iff_right]

/-- VLQENC's quanta are the rule's, position by position (R114, R116). -/
theorem vlqQuanta_eq (k : Nat) : ∀ u < 32 ^ (k + 1),
    vlqQuanta (k + 1) u = (List.range (reachedPowers k u + 1)).map (quantumAt (reachedPowers k u + 1) u) := by
  induction k with
  | zero =>
    intro u hu
    have hu : u < 32 := by simpa using hu
    rw [vlqQuanta_last hu, reachedPowers_of_lt hu]
    simp [quantumAt, Nat.mod_eq_of_lt hu]
  | succ k ih =>
    intro u hu
    rcases Nat.lt_or_ge u 32 with hlt | hge
    · rw [vlqQuanta_last hlt, reachedPowers_of_lt hlt]
      simp [quantumAt, Nat.mod_eq_of_lt hlt]
    · have hquot : u / 32 < 32 ^ (k + 1) := Nat.div_lt_of_lt_mul (by rwa [← Nat.pow_succ'])
      rw [vlqQuanta_more hge, ih _ hquot, reachedPowers_succ hge]
      rw [List.range_succ_eq_map (n := reachedPowers k (u / 32) + 1), List.map_cons, List.map_map]
      congr 1
      · simp [quantumAt]
      · exact List.map_congr_left fun j _ => (quantumAt_succ _ _ _).symm

theorem quantumAt_lt (n u j : Nat) : quantumAt n u j < 64 := by
  rw [quantumAt]
  split <;> omega

/-- VLQENC's text for one lane is the rule's (R116). -/
theorem vlqEncode_toNat (v : Lane) : (vlqEncode v.toInt).map BitVec.toNat = vlqText v.toInt := by
  rw [vlqEncode, vlqFold_eq, vlqQuanta_eq 12 _ (foldedNumber_lt v), ← quantaCount_eq, List.map_map, List.map_map]
  exact List.map_congr_left fun j _ => alphaOf_toNat _ (quantumAt_lt _ _ j)

/-- The characters that VLQENC gives for a list of lanes (R116). -/
def vlqEncodeAll (lanes : List Lane) : List Byte := lanes.flatMap fun v => vlqEncode v.toInt

theorem vlqEncodeAll_toNat (lanes : List Lane) : (vlqEncodeAll lanes).map BitVec.toNat = vlqTextOf lanes := by
  simp only [vlqEncodeAll, vlqTextOf, List.map_flatMap, vlqEncode_toNat]

theorem opOf_vlqenc (arg0 arg1 : Lane) (input : List Lane) :
    opOf .vlqenc arg0 arg1 input = outputs (asLanes (vlqTextOf input)) := by
  rw [← vlqEncodeAll_toNat, ← map_byteLane]
  rfl

/-- Settles O32: each lane's text is the rule's (`vlqEncode_toNat`). -/
theorem vlqencResult : Obligations.VlqencResult := by
  intro s hroom
  exact exec_of_outputs (opOf_vlqenc _ _ _) (by simpa [asLanes] using hroom)

/-! ### The decoder's loop -/

/-- What the loop answers at the end of the integer that began at `p`, `rest` being its answer for the text after it. -/
def finishInteger (p u : Nat) (rest : Except OpError (List Lane)) : Except OpError (List Lane) :=
  (vlqUnfold u).elim (.error ⟨.range, p, 0⟩) fun v => prependOk [v] rest

theorem vlqDecodeFrom_nil_open (i acc shift p : Nat) :
    vlqDecodeFrom i acc shift (some p) [] = .error ⟨.format, p, 0⟩ := rfl

/-- "open and start": where no integer is open, the next symbol opens one (R117). -/
theorem vlqDecodeFrom_cons_start (i acc shift : Nat) (c : Byte) (t : List Byte) :
    vlqDecodeFrom i acc shift none (c :: t) = vlqDecodeFrom i acc shift (some i) (c :: t) := rfl

/-- A character outside the alphabet, in an open integer or not (R117). -/
theorem vlqDecodeFrom_badchar {c : Byte} (h : indexOf c = none) (i acc shift : Nat) (start : Option Nat) (t : List Byte) :
    vlqDecodeFrom i acc shift start (c :: t) = .error ⟨.badchar, i, c.toNat⟩ := by
  rw [vlqDecodeFrom, h]

/-- The quanta read so far lie below the shift, so the next one is added above them. -/
theorem or_quantum_eq_add {acc shift : Nat} (h : acc < 2 ^ shift) (q : Nat) :
    acc ||| (q &&& 31) <<< shift = acc + 2 ^ shift * (q % 32) := by
  rw [Nat.or_comm, shiftLeft_or_eq_mul_add _ h, and_thirtyOne]
  ring

theorem and_thirtyTwo_ne_zero {q : Nat} (hq : q < 64) : q &&& 32 ≠ 0 ↔ 32 ≤ q := by
  revert q
  decide

/-- A quantum with the continuation flag keeps the integer open. -/
theorem vlqDecodeFrom_open {q acc shift : Nat} (hlo : 32 ≤ q) (hhi : q < 64) (hacc : acc < 2 ^ shift) (i p : Nat)
    (t : List Byte) :
    vlqDecodeFrom i acc shift (some p) (alphaOf q :: t) =
      vlqDecodeFrom (i + 1) (acc + 2 ^ shift * (q % 32)) (shift + 5) (some p) t := by
  rw [vlqDecodeFrom, indexOf_alphaOf q hhi]
  simp only
  rw [if_pos ((and_thirtyTwo_ne_zero hhi).2 hlo), or_quantum_eq_add hacc, Option.getD_some]

/-- A quantum without the flag ends the integer, and the next symbol opens another (R117). -/
theorem vlqDecodeFrom_last {q acc shift : Nat} (hq : q < 32) (hacc : acc < 2 ^ shift) (i p : Nat) (t : List Byte) :
    vlqDecodeFrom i acc shift (some p) (alphaOf q :: t) =
      finishInteger p (acc + 2 ^ shift * (q % 32)) (vlqDecodeFrom (i + 1) 0 0 none t) := by
  have hflag : ¬ q &&& 32 ≠ 0 := fun h => by
    have := (and_thirtyTwo_ne_zero (by omega)).1 h
    omega
  rw [vlqDecodeFrom, indexOf_alphaOf q (by omega)]
  simp only
  rw [if_neg hflag, or_quantum_eq_add hacc, finishInteger, Option.getD_some]
  cases vlqUnfold (acc + 2 ^ shift * (q % 32)) <;> rfl

/-! ### The value of one integer -/

/-- The lane that a string of quanta stands for (R114, R117). -/
def quantaLane (g : List Nat) : Lane := BitVec.ofInt 64 (unfoldedNumber (quantaValue g))

/-- A folded number that fits becomes its integer's lane (R117). -/
theorem vlqUnfold_of_fits {u : Nat} (h : foldedFits u = true) :
    vlqUnfold u = some (BitVec.ofInt 64 (unfoldedNumber u)) := by
  have hsign : u &&& 1 = u % 2 := Nat.and_one_is_mod u
  have hmag : u >>> 1 = u / 2 := Nat.shiftRight_eq_div_pow u 1
  have hfit : ¬ (u / 2 > 2 ^ 63 ∨ (u / 2 = 2 ^ 63 ∧ u % 2 = 0)) := by
    simp only [foldedFits, Bool.or_eq_true, Bool.and_eq_true, decide_eq_true_eq] at h
    omega
  simp only [vlqUnfold, hsign, hmag]
  rw [if_neg hfit, unfoldedNumber]
  split
  · rfl
  · rw [BitVec.ofInt_natCast]

/-- Any other folded number has no lane (R117). -/
theorem vlqUnfold_of_not_fits {u : Nat} (h : foldedFits u = false) : vlqUnfold u = none := by
  have hsign : u &&& 1 = u % 2 := Nat.and_one_is_mod u
  have hmag : u >>> 1 = u / 2 := Nat.shiftRight_eq_div_pow u 1
  have hlarge : u / 2 > 2 ^ 63 ∨ (u / 2 = 2 ^ 63 ∧ u % 2 = 0) := by
    simp only [foldedFits, Bool.or_eq_false_iff, Bool.and_eq_false_iff, decide_eq_false_iff_not] at h
    omega
  simp only [vlqUnfold, hsign, hmag]
  rw [if_pos hlarge]

theorem finishInteger_of_fits {u : Nat} (h : foldedFits u = true) (p : Nat) (rest : Except OpError (List Lane)) :
    finishInteger p u rest = prependOk [BitVec.ofInt 64 (unfoldedNumber u)] rest := by
  rw [finishInteger, vlqUnfold_of_fits h, Option.elim_some]

theorem finishInteger_of_not_fits {u : Nat} (h : foldedFits u = false) (p : Nat) (rest : Except OpError (List Lane)) :
    finishInteger p u rest = .error ⟨.range, p, 0⟩ := by
  rw [finishInteger, vlqUnfold_of_not_fits h, Option.elim_none]

/-! ### Strings of quanta -/

theorem allOpen_cons {q : Nat} {t : List Nat} : allOpen (q :: t) = true ↔ (32 ≤ q ∧ q < 64) ∧ allOpen t = true := by
  simp [allOpen]

/-- The quanta of one integer are open quanta and then a last one without the flag (R114). -/
theorem exists_last_of_isQuantaString {g : List Nat} (h : isQuantaString g = true) :
    ∃ init q, g = init ++ [q] ∧ allOpen init = true ∧ q < 32 := by
  induction g using isQuantaString.induct with
  | case1 => simp [isQuantaString] at h
  | case2 q => exact ⟨[], q, rfl, rfl, by simpa [isQuantaString] using h⟩
  | case3 q t hne ih =>
    rw [isQuantaString.eq_3 _ _ hne, Bool.and_eq_true, decide_eq_true_eq] at h
    obtain ⟨init, last, rfl, hinit, hlast⟩ := ih h.2
    exact ⟨q :: init, last, rfl, allOpen_cons.2 ⟨h.1, hinit⟩, hlast⟩

theorem quanta_lt_of_allOpen {g : List Nat} (h : allOpen g = true) : ∀ q ∈ g, q < 64 := by
  intro q hq
  simp only [allOpen, List.all_eq_true, decide_eq_true_eq] at h
  exact (h q hq).2

theorem quanta_lt_of_isQuantaString {g : List Nat} (h : isQuantaString g = true) : ∀ q ∈ g, q < 64 := by
  obtain ⟨init, last, rfl, hinit, hlast⟩ := exists_last_of_isQuantaString h
  intro q hq
  rcases List.mem_append.1 hq with hq | hq
  · exact quanta_lt_of_allOpen hinit q hq
  · obtain rfl := List.mem_singleton.1 hq
    omega

theorem quantaValue_append_singleton (g : List Nat) (q : Nat) :
    quantaValue (g ++ [q]) = quantaValue g + 2 ^ (5 * g.length) * (q % 32) := by
  induction g with
  | nil => simp [quantaValue]
  | cons p t ih =>
    rw [List.cons_append, quantaValue, ih, quantaValue, List.length_cons, Nat.mul_succ, Nat.pow_add]
    ring

theorem quantaValue_lt (g : List Nat) : quantaValue g < 2 ^ (5 * g.length) := by
  induction g with
  | nil => simp [quantaValue]
  | cons p t ih =>
    rw [quantaValue, List.length_cons, Nat.mul_succ, Nat.pow_add]
    omega

/-- Reading open quanta adds up their value and leaves the integer open (R117). -/
theorem vlqDecodeFrom_allOpen {g : List Nat} (hg : allOpen g = true) (p : Nat) (rest : List Byte) :
    ∀ i acc shift, acc < 2 ^ shift → vlqDecodeFrom i acc shift (some p) (g.map alphaOf ++ rest) =
      vlqDecodeFrom (i + g.length) (acc + 2 ^ shift * quantaValue g) (shift + 5 * g.length) (some p) rest := by
  induction g with
  | nil => simp [quantaValue]
  | cons q t ih =>
    intro i acc shift hacc
    obtain ⟨⟨hlo, hhi⟩, ht⟩ := allOpen_cons.1 hg
    have hacc' : acc + 2 ^ shift * (q % 32) < 2 ^ (shift + 5) := by
      rw [Nat.pow_add]
      nlinarith [Nat.mod_lt q (by decide : 32 > 0)]
    have hvalue : acc + 2 ^ shift * (q % 32) + 2 ^ (shift + 5) * quantaValue t =
        acc + 2 ^ shift * quantaValue (q :: t) := by
      rw [quantaValue, Nat.pow_add]
      ring
    have hindex : i + 1 + t.length = i + (q :: t).length := by
      rw [List.length_cons]
      omega
    have hshift : shift + 5 + 5 * t.length = shift + 5 * (q :: t).length := by
      rw [List.length_cons]
      omega
    rw [List.map_cons, List.cons_append, vlqDecodeFrom_open hlo hhi hacc, ih ht _ _ _ hacc', hvalue, hindex, hshift]

theorem vlqDecodeFrom_start {bs : List Byte} (h : bs ≠ []) (i acc shift : Nat) :
    vlqDecodeFrom i acc shift none bs = vlqDecodeFrom i acc shift (some i) bs := by
  cases bs with
  | nil => exact absurd rfl h
  | cons c t => exact vlqDecodeFrom_cons_start i acc shift c t

/-- The open quanta at the start of an integer: the working registers hold their value (R36, R117). -/
theorem vlqDecodeFrom_begin {g : List Nat} (hg : allOpen g = true) {rest : List Byte} (h : g ≠ [] ∨ rest ≠ [])
    (i : Nat) :
    vlqDecodeFrom i 0 0 none (g.map alphaOf ++ rest) =
      vlqDecodeFrom (i + g.length) (quantaValue g) (5 * g.length) (some i) rest := by
  have hne : g.map alphaOf ++ rest ≠ [] := by simpa using imp_iff_not_or.2 h
  rw [vlqDecodeFrom_start hne, vlqDecodeFrom_allOpen hg i rest i 0 0 (by decide)]
  simp

/-- One whole integer (R117). -/
theorem vlqDecodeFrom_integer {g : List Nat} (hg : isQuantaString g = true) (i : Nat) (rest : List Byte) :
    vlqDecodeFrom i 0 0 none (g.map alphaOf ++ rest) =
      finishInteger i (quantaValue g) (vlqDecodeFrom (i + g.length) 0 0 none rest) := by
  obtain ⟨init, q, rfl, hinit, hq⟩ := exists_last_of_isQuantaString hg
  rw [List.map_append, List.append_assoc, vlqDecodeFrom_begin hinit (.inr (by simp)), List.map_singleton,
    List.singleton_append, vlqDecodeFrom_last hq (quantaValue_lt init), quantaValue_append_singleton, List.length_append]
  rfl

theorem prependOk_prependOk {α : Type} (xs ys : List α) (r : Except OpError (List α)) :
    prependOk xs (prependOk ys r) = prependOk (xs ++ ys) r := by
  cases r <;> simp

/-- Any number of whole integers that fit: one lane for each, and then the rest of the text (R117). -/
theorem vlqDecodeFrom_integers {gs : List (List Nat)}
    (hgs : ∀ g ∈ gs, isQuantaString g = true ∧ foldedFits (quantaValue g) = true) (rest : List Byte) : ∀ i,
    vlqDecodeFrom i 0 0 none (gs.flatten.map alphaOf ++ rest) =
      prependOk (gs.map quantaLane) (vlqDecodeFrom (i + gs.flatten.length) 0 0 none rest) := by
  induction gs with
  | nil =>
    intro i
    cases h : vlqDecodeFrom i 0 0 none rest <;> simp [h]
  | cons g t ih =>
    intro i
    simp only [List.forall_mem_cons] at hgs
    obtain ⟨⟨hg, hfits⟩, ht⟩ := hgs
    rw [List.flatten_cons, List.map_append, List.append_assoc, vlqDecodeFrom_integer hg, finishInteger_of_fits hfits,
      ih ht, prependOk_prependOk, List.length_append, Nat.add_assoc]
    rfl

/-- The first error after whole integers that fit is the loop's answer: the lanes already read are given up (R303). -/
theorem vlqDecode_error {gs : List (List Nat)}
    (hgs : ∀ g ∈ gs, isQuantaString g = true ∧ foldedFits (quantaValue g) = true) {rest : List Byte} {e : OpError}
    (h : vlqDecodeFrom gs.flatten.length 0 0 none rest = .error e) :
    vlqDecode (gs.flatten.map alphaOf ++ rest) = .error e := by
  rw [vlqDecode, vlqDecodeFrom_integers hgs, Nat.zero_add, h, prependOk_error]

theorem vlqDecode_integers {gs : List (List Nat)}
    (hgs : ∀ g ∈ gs, isQuantaString g = true ∧ foldedFits (quantaValue g) = true) :
    vlqDecode (gs.flatten.map alphaOf) = .ok (gs.map quantaLane) := by
  have h := vlqDecodeFrom_integers hgs [] 0
  rwa [List.append_nil, vlqDecodeFrom, prependOk_ok, List.append_nil] at h

/-! ### VLQDEC -/

/-- The characters of quanta, as bytes. -/
theorem map_ofNat_alphabetAt {qs : List Nat} (h : ∀ q ∈ qs, q < 64) :
    (qs.map alphabetAt).map (BitVec.ofNat 8) = qs.map alphaOf := by
  rw [List.map_map]
  refine List.map_congr_left fun q hq => ?_
  rw [Function.comp_apply, ← alphaOf_toNat q (h q hq), BitVec.ofNat_toNat, BitVec.setWidth_eq]

theorem quanta_lt_of_flatten {gs : List (List Nat)}
    (hgs : ∀ g ∈ gs, isQuantaString g = true ∧ foldedFits (quantaValue g) = true) : ∀ q ∈ gs.flatten, q < 64 := by
  intro q hq
  obtain ⟨g, hg, hq⟩ := List.mem_flatten.1 hq
  exact quanta_lt_of_isQuantaString (hgs g hg).1 q hq

/-- A ready VLQDEC on a text without error. -/
theorem exec_vlqdec_ok {s : State} {lanes : List Lane} (h : vlqDecode (byteInput s.input) = .ok lanes)
    (hroom : s.roomFor lanes.length) : exec .vlqdec s = .next (s.completed lanes 0 0 0 0 0) :=
  exec_of_outputs (congrArg raisingOutputs h) hroom

/-- A ready VLQDEC on a text with an error. -/
theorem exec_vlqdec_error {s : State} {e : OpError} (h : vlqDecode (byteInput s.input) = .error e) (hready : s.ready) :
    exec .vlqdec s = .next (s.failed e.code.report (BitVec.ofNat 64 e.pos) (BitVec.ofNat 64 e.info)) := by
  rw [exec_eq, State.runOp_error hready (congrArg raisingOutputs h)]

/-- Settles O33: `vlqDecode_integers` for the bytes of the text. -/
theorem vlqdecResult : Obligations.VlqdecResult := by
  intro s gs hroom hgs htext
  have hin : byteInput s.input = gs.flatten.map alphaOf := by
    rw [State.byteInput_input_eq, htext, map_ofNat_alphabetAt (quanta_lt_of_flatten hgs)]
  have hdec := vlqDecode_integers hgs
  rw [← hin] at hdec
  exact exec_vlqdec_ok hdec (by simpa using hroom)

/-- The bytes of a text of whole integers, then of quanta of one more, then of anything. -/
theorem byteInput_of_text {s : State} {gs : List (List Nat)} {g rest : List Nat}
    (htext : s.byteValues = gs.flatten.map alphabetAt ++ g.map alphabetAt ++ rest)
    (hgs : ∀ g ∈ gs, isQuantaString g = true ∧ foldedFits (quantaValue g) = true) (hg : ∀ q ∈ g, q < 64) :
    byteInput s.input = gs.flatten.map alphaOf ++ (g.map alphaOf ++ rest.map (BitVec.ofNat 8)) := by
  rw [State.byteInput_input_eq, htext, List.map_append, List.map_append, map_ofNat_alphabetAt (quanta_lt_of_flatten hgs),
    map_ofNat_alphabetAt hg, List.append_assoc]

/-- E_BADCHAR, in an open integer or between two (R117). -/
theorem vlqDecodeFrom_open_then_badchar {g : List Nat} (hg : allOpen g = true) {c : Byte} (hc : indexOf c = none) (i : Nat)
    (rest : List Byte) :
    vlqDecodeFrom i 0 0 none (g.map alphaOf ++ c :: rest) = .error ⟨.badchar, i + g.length, c.toNat⟩ := by
  rw [vlqDecodeFrom_begin hg (.inr (by simp)), vlqDecodeFrom_badchar hc]

/-- E_FORMAT (R117). -/
theorem vlqDecodeFrom_unfinished {g : List Nat} (hg : allOpen g = true) (hne : g ≠ []) (i : Nat) :
    vlqDecodeFrom i 0 0 none (g.map alphaOf ++ []) = .error ⟨.format, i, 0⟩ := by
  rw [vlqDecodeFrom_begin hg (.inl hne), vlqDecodeFrom_nil_open]

/-- E_RANGE (R117). -/
theorem vlqDecodeFrom_tooLarge {g : List Nat} (hg : isQuantaString g = true) (hlarge : foldedFits (quantaValue g) = false)
    (i : Nat) (rest : List Byte) :
    vlqDecodeFrom i 0 0 none (g.map alphaOf ++ rest) = .error ⟨.range, i, 0⟩ := by
  rw [vlqDecodeFrom_integer hg, finishInteger_of_not_fits hlarge]

/-- Settles O34: past the whole integers the loop meets the error (`vlqDecode_error`), one lemma for each of the three. -/
theorem vlqdecErrors : Obligations.VlqdecErrors := by
  intro s gs g c rest hready hgs
  refine ⟨fun htext hopen hc => ?_, fun htext hg hlarge => ?_, fun htext hopen hne => ?_⟩
  · have hbyte : c < 256 := s.byteValues_lt c (by simp [htext])
    have hcode : (BitVec.ofNat 8 c).toNat = c := Nat.mod_eq_of_lt hbyte
    have hnone : indexOf (BitVec.ofNat 8 c) = none := by
      rwa [indexOf_eq_idxOf?, hcode, List.idxOf?_eq_none_iff]
    have hdec := vlqDecode_error hgs (vlqDecodeFrom_open_then_badchar hopen hnone _ (rest.map (BitVec.ofNat 8)))
    rw [← List.map_cons, ← byteInput_of_text htext hgs (quanta_lt_of_allOpen hopen), hcode] at hdec
    exact exec_vlqdec_error hdec hready
  · have hdec := vlqDecode_error hgs (vlqDecodeFrom_tooLarge hg hlarge _ (rest.map (BitVec.ofNat 8)))
    rw [← byteInput_of_text htext hgs (quanta_lt_of_isQuantaString hg)] at hdec
    exact exec_vlqdec_error hdec hready
  · rw [← List.append_nil (_ ++ _)] at htext
    have hdec := vlqDecode_error hgs (vlqDecodeFrom_unfinished hopen hne _)
    rw [← List.map_nil (f := BitVec.ofNat 8), ← byteInput_of_text htext hgs (quanta_lt_of_allOpen hopen)] at hdec
    exact exec_vlqdec_error hdec hready

/-! ### The round trip -/

/-- The quanta of one lane (R116). -/
def laneQuanta (v : Lane) : List Nat := vlqQuanta 13 (foldedNumber v.toInt)

theorem vlqEncodeAll_eq (lanes : List Lane) : vlqEncodeAll lanes = (lanes.map laneQuanta).flatten.map alphaOf := by
  simp only [vlqEncodeAll, vlqEncode, vlqFold_eq, List.map_flatten, List.map_map, List.flatMap_def]
  rfl

/-- The quanta of a number that they have room for are a whole integer, and carry that number. -/
theorem vlqQuanta_spec (k : Nat) : ∀ u < 32 ^ (k + 1),
    isQuantaString (vlqQuanta (k + 1) u) = true ∧ quantaValue (vlqQuanta (k + 1) u) = u := by
  induction k with
  | zero =>
    intro u hu
    have hu : u < 32 := by simpa using hu
    rw [vlqQuanta_last hu]
    simp [isQuantaString, quantaValue, hu, Nat.mod_eq_of_lt hu]
  | succ k ih =>
    intro u hu
    rcases Nat.lt_or_ge u 32 with hlt | hge
    · rw [vlqQuanta_last hlt]
      simp [isQuantaString, quantaValue, hlt, Nat.mod_eq_of_lt hlt]
    · obtain ⟨hstring, hvalue⟩ := ih (u / 32) (Nat.div_lt_of_lt_mul (by rwa [← Nat.pow_succ']))
      have hne : vlqQuanta (k + 1) (u / 32) ≠ [] := fun h => by simp [h, isQuantaString] at hstring
      rw [vlqQuanta_more hge]
      constructor
      · rw [isQuantaString.eq_3 _ _ hne, hstring, Bool.and_true, decide_eq_true_eq]
        omega
      · rw [quantaValue, hvalue]
        omega

theorem foldedNumber_div_two (v : Int) : foldedNumber v / 2 = v.natAbs := by
  rw [foldedNumber]
  split <;> omega

theorem foldedNumber_mod_two (v : Int) : foldedNumber v % 2 = 1 ↔ v < 0 := by
  rw [foldedNumber]
  split <;> omega

/-- Folding loses nothing (R118). -/
theorem unfoldedNumber_foldedNumber (v : Int) : unfoldedNumber (foldedNumber v) = v := by
  simp only [unfoldedNumber, foldedNumber_div_two, foldedNumber_mod_two]
  split <;> omega

/-- Every lane's folded number fits, -2^63 included (R115). -/
theorem foldedFits_foldedNumber (v : Lane) : foldedFits (foldedNumber v.toInt) = true := by
  have hlo := BitVec.le_toInt v
  have hhi := BitVec.toInt_lt (x := v)
  simp only [foldedFits, foldedNumber_div_two, foldedNumber_mod_two, Bool.or_eq_true, Bool.and_eq_true, decide_eq_true_eq]
  omega

theorem quantaLane_laneQuanta (v : Lane) : quantaLane (laneQuanta v) = v := by
  obtain ⟨-, hvalue⟩ := vlqQuanta_spec 12 _ (foldedNumber_lt v)
  rw [quantaLane, laneQuanta, hvalue, unfoldedNumber_foldedNumber, BitVec.ofInt_toInt]

/-- The quanta of every lane are a whole integer that fits. -/
theorem laneQuanta_fits (v : Lane) :
    isQuantaString (laneQuanta v) = true ∧ foldedFits (quantaValue (laneQuanta v)) = true := by
  obtain ⟨hstring, hvalue⟩ := vlqQuanta_spec 12 _ (foldedNumber_lt v)
  rw [laneQuanta, hvalue]
  exact ⟨hstring, foldedFits_foldedNumber v⟩

/-- VLQDEC undoes VLQENC on characters (R118). -/
theorem vlqDecode_vlqEncodeAll (lanes : List Lane) : vlqDecode (vlqEncodeAll lanes) = .ok lanes := by
  have hfits : ∀ g ∈ lanes.map laneQuanta, isQuantaString g = true ∧ foldedFits (quantaValue g) = true :=
    List.forall_mem_map.2 fun v _ => laneQuanta_fits v
  have hlanes : (lanes.map laneQuanta).map quantaLane = lanes := by
    simp [Function.comp_def, quantaLane_laneQuanta]
  rw [vlqEncodeAll_eq, vlqDecode_integers hfits, hlanes]

/-- Settles O35: the lanes come back (`vlqDecode_vlqEncodeAll`), through the output port and the input port. -/
theorem vlqRoundTrip : Obligations.VlqRoundTrip := by
  intro s t u hroom ht hfeed hroom'
  have hin : u.input = asLanes (vlqTextOf s.input) :=
    input_of_feedsInto (opOf_vlqenc _ _ _) (by simpa [asLanes] using hroom) ht hfeed
  have hback : vlqDecode (byteInput u.input) = .ok s.input := by
    rw [hin, ← vlqEncodeAll_toNat, ← map_byteLane, byteInput_map_byteLane, vlqDecode_vlqEncodeAll]
  exact exec_vlqdec_ok hback (by simpa using hroom')

end Sys2Proof.Machine
end

section
/-! PROOFS. The statements on the integer converter (42_intconv.md). A group of bytes and a number below `256 ^ w` are two
forms of one thing (`bytesOf_assemble`, `assemble_bytesOf`), and a lane carries that number in its low `w` bytes. -/

namespace Sys2Proof.Machine

/-! ### The sixteen ops -/

/-- The eight bytes-to-integers ops are R131's one function, at their width and signedness. -/
theorem opOf_bytesToIntOps {le signed : Bool} {i : Instr} {w : Nat} (h : (i, w, signed) ∈ bytesToIntOps le)
    (arg0 arg1 : Lane) (input : List Lane) :
    opOf i arg0 arg1 input = outputs (bytesToInts w signed le (byteInput input)) := by
  have hall : ∀ p ∈ bytesToIntOps le,
      opOf p.1 arg0 arg1 input = outputs (bytesToInts p.2.1 p.2.2 le (byteInput input)) := by
    simp [bytesToIntOps, opOf]
  exact hall _ h

/-- The eight integers-to-bytes ops are R132's one function, at their width. -/
theorem opOf_intToBytesOps {le : Bool} {i : Instr} {w : Nat} (h : (i, w) ∈ intToBytesOps le)
    (arg0 arg1 : Lane) (input : List Lane) :
    opOf i arg0 arg1 input = outputs ((intsToBytes w le input).map byteLane) := by
  have hall : ∀ p ∈ intToBytesOps le, opOf p.1 arg0 arg1 input = outputs ((intsToBytes p.2 le input).map byteLane) := by
    simp [intToBytesOps, opOf]
  exact hall _ h

/-- An integer has at least one byte and fits a lane (R131). -/
theorem width_of_mem_bytesToIntOps {le signed : Bool} {i : Instr} {w : Nat} (h : (i, w, signed) ∈ bytesToIntOps le) :
    0 < w ∧ w ≤ 8 := by
  have hall : ∀ p ∈ bytesToIntOps le, 0 < p.2.1 ∧ p.2.1 ≤ 8 := by simp [bytesToIntOps]
  exact hall _ h

/-! ### Bytes and numbers -/

theorem pow_256_eq (w : Nat) : 256 ^ w = 2 ^ (8 * w) := (pow_mul 2 8 w).symm

/-- Integers of at most eight bytes divide the lane's 64 bits evenly. -/
theorem pow_256_dvd_lane {w : Nat} (hw8 : w ≤ 8) : 256 ^ w ∣ 2 ^ 64 := pow_dvd_pow 256 hw8

theorem bytesLE_eq (w v : Nat) : bytesLE w v = (List.range w).map fun j => BitVec.ofNat 8 (v / 256 ^ j) := by
  simp only [bytesLE, Nat.shiftRight_eq_div_pow, pow_256_eq]

theorem bytesLE_succ (w v : Nat) : bytesLE (w + 1) v = BitVec.ofNat 8 v :: bytesLE w (v / 256) := by
  simp [bytesLE_eq, List.range_succ_eq_map, Nat.div_div_eq_div_mul, Nat.pow_succ']

/-- The first byte is the least significant (R131, LE = 1). -/
theorem assemble_true_cons (b : Byte) (t : List Byte) : assemble true (b :: t) = b.toNat + 256 * assemble true t := by
  have hone : assembleBE [b] = b.toNat := by simp [assembleBE]
  simp [assemble, assembleBE_append, hone, Nat.add_comm, Nat.mul_comm]

theorem assemble_false (g : List Byte) : assemble false g = assemble true g.reverse := by simp [assemble]

theorem bytesOf_true (w v : Nat) : bytesOf w true v = bytesLE w v := rfl

theorem bytesOf_false (w v : Nat) : bytesOf w false v = (bytesLE w v).reverse := rfl

theorem assemble_bytesLE (w : Nat) : ∀ v, assemble true (bytesLE w v) = v % 256 ^ w := by
  induction w with
  | zero => intro v; simp [bytesLE, assemble, assembleBE, Nat.mod_one]
  | succ w ih =>
    intro v
    rw [bytesLE_succ, assemble_true_cons, ih, BitVec.toNat_ofNat, Nat.pow_succ' (m := 256), Nat.mod_mul]

theorem bytesLE_assemble (g : List Byte) : bytesLE g.length (assemble true g) = g := by
  induction g with
  | nil => rfl
  | cons b t ih =>
    have hrest : (b.toNat + 256 * assemble true t) / 256 = assemble true t := by
      have := b.isLt
      omega
    have hfirst : BitVec.ofNat 8 (b.toNat + 256 * assemble true t) = b :=
      BitVec.eq_of_toNat_eq (by have := b.isLt; rw [BitVec.toNat_ofNat]; omega)
    rw [List.length_cons, assemble_true_cons, bytesLE_succ, hfirst, hrest, ih]

/-- Assembling the low `w` bytes of a number gives the number modulo `256 ^ w`, in either byte order (R131, R132). -/
theorem assemble_bytesOf (w : Nat) (le : Bool) (v : Nat) : assemble le (bytesOf w le v) = v % 256 ^ w := by
  cases le with
  | true => rw [bytesOf_true, assemble_bytesLE]
  | false => rw [bytesOf_false, assemble_false, List.reverse_reverse, assemble_bytesLE]

/-- A group of bytes comes back from the number that it makes up, in either byte order (R131, R132). -/
theorem bytesOf_assemble (le : Bool) (g : List Byte) : bytesOf g.length le (assemble le g) = g := by
  cases le with
  | true => rw [bytesOf_true, bytesLE_assemble]
  | false => rw [bytesOf_false, assemble_false, ← List.length_reverse, bytesLE_assemble, List.reverse_reverse]

/-- "higher bits are ignored" (R132). -/
theorem bytesOf_mod (w : Nat) (le : Bool) (v : Nat) : bytesOf w le (v % 256 ^ w) = bytesOf w le v := by
  have h := bytesOf_assemble le (bytesOf w le v)
  rwa [assemble_bytesOf, bytesOf_length] at h

/-- The first `n` numbers in falling order. -/
theorem reverse_range (n : Nat) : (List.range n).reverse = (List.range n).map fun j => n - 1 - j := by
  simp [List.range_eq_range', List.reverse_range']

/-- Byte `j` of a number in either byte order (R132). -/
theorem bytesOf_toNat (w : Nat) (le : Bool) (v : Nat) :
    (bytesOf w le v).map BitVec.toNat =
      (List.range w).map fun j => v / 256 ^ (if le then j else w - 1 - j) % 256 := by
  cases le with
  | true => simp [bytesOf_true, bytesLE_eq]
  | false => simp [bytesOf_false, bytesLE_eq, ← List.map_reverse, reverse_range]

/-! ### The value of a group -/

theorem groupValue_true_succ (w : Nat) (x : Nat → Nat) (p : Nat) :
    groupValue (w + 1) true x p = x p + 256 * groupValue w true x (p + 1) := by
  have hplace (j : Nat) : x (p + (j + 1)) * 256 ^ (j + 1) = 256 * (x (p + 1 + j) * 256 ^ j) := by
    rw [Nat.add_comm j 1, Nat.add_assoc, Nat.pow_add, Nat.pow_one, Nat.mul_left_comm]
  simp [groupValue, List.range_succ_eq_map, Function.comp_def, hplace, List.sum_map_mul_left]

theorem groupValue_false_succ (w : Nat) (x : Nat → Nat) (p : Nat) :
    groupValue (w + 1) false x p = x p * 256 ^ w + groupValue w false x (p + 1) := by
  have hplace (j : Nat) : x (p + (j + 1)) * 256 ^ (w - (j + 1)) = x (p + 1 + j) * 256 ^ (w - 1 - j) := by
    rw [Nat.add_comm j 1, Nat.add_assoc, Nat.sub_sub]
  simp [groupValue, List.range_succ_eq_map, Function.comp_def, hplace]

/-- The assembled number is the sum of the bytes, each at its place (R131). -/
theorem assemble_eq_groupValue (le : Bool) (x : Nat → Nat) : ∀ (g : List Byte) (p : Nat),
    (∀ j (hj : j < g.length), g[j].toNat = x (p + j)) → assemble le g = groupValue g.length le x p
  | [], p, _ => by cases le <;> rfl
  | b :: t, p, h => by
    have hfirst : b.toNat = x p := h 0 (by simp)
    have hrest : assemble le t = groupValue t.length le x (p + 1) :=
      assemble_eq_groupValue le x t (p + 1) fun j hj => by
        have hnext := h (j + 1) (Nat.succ_lt_succ hj)
        rwa [List.getElem_cons_succ, Nat.add_comm j 1, ← Nat.add_assoc] at hnext
    cases le with
    | true => rw [assemble_true_cons, List.length_cons, groupValue_true_succ, hfirst, hrest]
    | false =>
      have hcons : assemble false (b :: t) = b.toNat * 256 ^ t.length + assemble false t := assembleBE_cons b t
      rw [hcons, List.length_cons, groupValue_false_succ, hfirst, hrest]

/-- Bytes in reverse order have the same value in the other byte order (R149). -/
theorem groupValue_reflect (w : Nat) (le : Bool) {x y : Nat → Nat} {p : Nat}
    (h : ∀ m, m < w → y (p + m) = x (p + (w - 1 - m))) : groupValue w (!le) y p = groupValue w le x p := by
  rw [groupValue, ← List.sum_reverse, ← List.map_reverse, reverse_range, List.map_map, groupValue]
  congr 1
  refine List.map_congr_left fun j hj => ?_
  have hj : j < w := List.mem_range.1 hj
  have hback : w - 1 - (w - 1 - j) = j := by omega
  simp only [Function.comp_apply, h (w - 1 - j) (by omega), hback]
  cases le <;> simp

/-! ### Groups of a byte sequence -/

theorem length_of_mem_completeGroups {w : Nat} {b g : List Byte} (h : g ∈ completeGroups w b) : g.length = w := by
  obtain ⟨k, hk, rfl⟩ := List.mem_map.1 h
  have hlt : k < b.length / w := List.mem_range.1 hk
  have hle : (k + 1) * w ≤ b.length := (Nat.mul_le_mul_right w hlt).trans (Nat.div_mul_le_self ..)
  rw [Nat.succ_mul] at hle
  rw [List.length_take, List.length_drop]
  omega

/-- "the n mod w bytes left over are discarded" (R131). -/
theorem completeGroups_flatten (w : Nat) (b : List Byte) :
    (completeGroups w b).flatten = b.take (w * (b.length / w)) := by
  rw [completeGroups, Nat.mul_comm]
  induction b.length / w with
  | zero => simp
  | succ m ih => simp [List.range_succ, ih, Nat.succ_mul, List.take_add]

theorem completeGroups_append {w : Nat} (hw : 0 < w) {g : List Byte} (hg : g.length = w) (b : List Byte) :
    completeGroups w (g ++ b) = g :: completeGroups w b := by
  have hcount : (g ++ b).length / w = b.length / w + 1 := by
    rw [List.length_append, hg, Nat.add_div_left _ hw]
  rw [completeGroups, hcount, List.range_succ_eq_map]
  subst hg
  simp [completeGroups, Nat.succ_mul, Nat.add_comm _ g.length, Function.comp_def]

theorem completeGroups_flatMap {α : Type} {w : Nat} (hw : 0 < w) {f : α → List Byte} (hf : ∀ v, (f v).length = w)
    (xs : List α) : completeGroups w (xs.flatMap f) = xs.map f := by
  induction xs with
  | nil => simp [completeGroups]
  | cons v t ih => rw [List.flatMap_cons, completeGroups_append hw (hf v), ih, List.map_cons]

theorem State.byteInput_getElem_toNat (s : State) {k : Nat} (h : k < (byteInput s.input).length) :
    (byteInput s.input)[k].toNat = s.byteAt k := by
  have hk : k < s.ilen.toNat := by simpa using h
  simp [byteInput, bytePort, State.byteAt, hk]

/-- The numbers of a state's complete groups are the rule's, group by group (R131). -/
theorem State.map_assemble_completeGroups (s : State) (w : Nat) (le : Bool) :
    (completeGroups w (byteInput s.input)).map (assemble le) =
      (List.range (s.ilen.toNat / w)).map fun k => groupValue w le s.byteAt (w * k) := by
  apply List.ext_getElem
  · simp
  · intro k hk _
    have hk : k < (completeGroups w (byteInput s.input)).length := by simpa using hk
    have hlen := length_of_mem_completeGroups (List.getElem_mem hk)
    have hsum := assemble_eq_groupValue le s.byteAt (completeGroups w (byteInput s.input))[k] (w * k) fun j hj => by
      simp [completeGroups_getElem, State.byteInput_getElem_toNat, Nat.mul_comm]
    rw [hlen] at hsum
    simpa using hsum

/-- The bytes of value `n` stand at the positions from `n * w` on (R132). -/
theorem valueByteAt_mul_add {w j : Nat} (le : Bool) (x : Nat → Nat) (n : Nat) (hj : j < w) :
    valueByteAt w le x (n * w + j) = x n / 256 ^ (if le then j else w - 1 - j) % 256 := by
  have hdiv : (n * w + j) / w = n := by
    rw [Nat.mul_comm, Nat.mul_add_div (by omega), Nat.div_eq_of_lt hj, Nat.add_zero]
  have hmod : (n * w + j) % w = j := by rw [Nat.mul_add_mod', Nat.mod_eq_of_lt hj]
  rw [valueByteAt, hdiv, hmod]

/-- The bytes of the numbers `x 0, x 1, ..` are the rule's, byte by byte (R132). -/
theorem flatMap_bytesOf_toNat (w : Nat) (le : Bool) (x : Nat → Nat) (n : Nat) :
    ((List.range n).flatMap fun k => bytesOf w le (x k)).map BitVec.toNat =
      (List.range (n * w)).map (valueByteAt w le x) := by
  induction n with
  | zero => simp
  | succ n ih =>
    have hlast : (bytesOf w le (x n)).map BitVec.toNat = (List.range w).map (valueByteAt w le x ∘ (n * w + ·)) := by
      rw [bytesOf_toNat]
      exact List.map_congr_left fun j hj => (valueByteAt_mul_add le x n (List.mem_range.1 hj)).symm
    rw [List.range_succ, List.flatMap_append, List.map_append, ih, Nat.succ_mul, List.range_add, List.map_append,
      List.map_map, ← hlast]
    simp

/-! ### Lanes -/

theorem laneTable_eq_asLanes (n : Nat) (f : Nat → Nat) : laneTable n f = asLanes ((List.range n).map f) := by
  simp [laneTable, asLanes]

@[simp] theorem laneTable_length (n : Nat) (f : Nat → Nat) : (laneTable n f).length = n := by simp [laneTable]

theorem laneTable_congr {n : Nat} {f g : Nat → Nat} (h : ∀ k < n, f k = g k) : laneTable n f = laneTable n g :=
  List.map_congr_left fun k hk => congrArg _ (h k (List.mem_range.1 hk))

/-- A sequence made lane by lane from the input is given by position (R17). -/
theorem State.map_input (s : State) (f : Nat → Nat) :
    (s.input.map fun v => BitVec.ofNat 64 (f v.toNat)) = laneTable s.ilen.toNat fun k => f (s.ibuf.read k).toNat := by
  simp [State.input, laneTable]

/-- The integer output port on a number of `w` bytes: sign extension is the addition that `extendedValue` writes (R16,
R27). -/
theorem integerLane_eq_ofNat {w : Nat} (hw8 : w ≤ 8) (signed : Bool) {v : Nat} (hv : v < 256 ^ w) :
    integerLane w signed v = BitVec.ofNat 64 (extendedValue w signed v) := by
  have hwide : 256 ^ w ≤ 2 ^ 64 := Nat.le_of_dvd (by decide) (pow_256_dvd_lane hw8)
  rw [pow_256_eq] at hv hwide
  cases signed with
  | false => simp [integerLane, extendedValue]
  | true =>
    apply BitVec.eq_of_toNat_eq
    simp only [integerLane, extendedValue, if_true, true_and, BitVec.toNat_signExtend, BitVec.msb_eq_decide,
      BitVec.toNat_setWidth, BitVec.toNat_ofNat, Nat.mod_eq_of_lt hv, decide_eq_true_eq]
    split <;> omega

/-- Extension adds a multiple of `256 ^ w`: the low `w` bytes stay (R149). -/
theorem extendedValue_mod {w : Nat} (hw8 : w ≤ 8) (signed : Bool) {v : Nat} (hv : v < 256 ^ w) :
    extendedValue w signed v % 256 ^ w = v := by
  have hwide : 256 ^ w ≤ 2 ^ 64 := Nat.le_of_dvd (by decide) (pow_256_dvd_lane hw8)
  obtain ⟨c, hc⟩ := Nat.dvd_sub (pow_256_dvd_lane hw8) (Nat.dvd_refl (256 ^ w))
  rw [extendedValue]
  split
  · rw [← pow_256_eq, Nat.add_sub_assoc hwide, hc, Nat.add_mul_mod_self_left, Nat.mod_eq_of_lt hv]
  · exact Nat.mod_eq_of_lt hv

/-- A lane's low bytes are the number that was sign- or zero-extended into it (R132, R149). -/
theorem bytesOf_integerLane {w : Nat} (hw8 : w ≤ 8) (le signed : Bool) {v : Nat} (hv : v < 256 ^ w) :
    bytesOf w le (integerLane w signed v).toNat = bytesOf w le v := by
  rw [← bytesOf_mod, integerLane_eq_ofNat hw8 signed hv, BitVec.toNat_ofNat, Nat.mod_mod_of_dvd _ (pow_256_dvd_lane hw8),
    extendedValue_mod hw8 signed hv]

/-! ### Bytes to integers -/

/-- A group's lane is its assembled number, extended (R131). -/
theorem bytesToInts_eq {w : Nat} (hw8 : w ≤ 8) (signed le : Bool) (bs : List Byte) :
    bytesToInts w signed le bs = ((completeGroups w bs).map (assemble le)).map fun v =>
      BitVec.ofNat 64 (extendedValue w signed v) := by
  rw [bytesToInts, List.map_map]
  refine List.map_congr_left fun g hg => ?_
  have hlt := assemble_lt le g
  rw [length_of_mem_completeGroups hg] at hlt
  exact integerLane_eq_ofNat hw8 signed hlt

/-- The lanes for a state's bytes are the rule's, position by position (R131). -/
theorem State.bytesToInts_input (s : State) {w : Nat} (hw8 : w ≤ 8) (signed le : Bool) :
    bytesToInts w signed le (byteInput s.input) =
      laneTable (s.ilen.toNat / w) fun k => extendedValue w signed (groupValue w le s.byteAt (w * k)) := by
  rw [bytesToInts_eq hw8, State.map_assemble_completeGroups, List.map_map]
  rfl

/-- Settles O36: the lanes are the rule's at every position (`State.bytesToInts_input`). -/
theorem bytesToIntegersResult : Obligations.BytesToIntegersResult := by
  intro le signed i w s hi hroom
  have hop := opOf_bytesToIntOps hi s.arg0 s.arg1 s.input
  rw [State.bytesToInts_input s (width_of_mem_bytesToIntOps hi).2] at hop
  exact exec_of_outputs hop (by simpa using hroom)

/-! ### Integers to bytes -/

/-- The bytes for a state's lanes are the rule's, byte by byte (R132). -/
theorem State.intsToBytes_input (s : State) (w : Nat) (le : Bool) :
    (intsToBytes w le s.input).map byteLane =
      laneTable (s.ilen.toNat * w) (valueByteAt w le fun k => (s.ibuf.read k).toNat) := by
  rw [map_byteLane, laneTable_eq_asLanes, ← flatMap_bytesOf_toNat, intsToBytes, State.input, List.flatMap_map]

/-- Settles O37: the bytes are the rule's at every position (`State.intsToBytes_input`). -/
theorem integersToBytesResult : Obligations.IntegersToBytesResult := by
  intro le i w s hi hroom
  have hop := opOf_intToBytesOps hi s.arg0 s.arg1 s.input
  rw [State.intsToBytes_input] at hop
  exact exec_of_outputs hop (by simpa using hroom)

/-! ### The round trips -/

/-- Integers to bytes undoes bytes to integers on the complete groups (R149). -/
theorem intsToBytes_bytesToInts {w : Nat} (hw8 : w ≤ 8) (signed le : Bool) (bs : List Byte) :
    intsToBytes w le (bytesToInts w signed le bs) = bs.take (w * (bs.length / w)) := by
  have hgroup : ∀ g ∈ completeGroups w bs, bytesOf w le (integerLane w signed (assemble le g)).toNat = g := by
    intro g hg
    obtain rfl := length_of_mem_completeGroups hg
    rw [bytesOf_integerLane hw8 le signed (assemble_lt le g), bytesOf_assemble]
  rw [← completeGroups_flatten, intsToBytes, bytesToInts, List.flatMap_map, List.flatMap_def,
    List.map_congr_left hgroup, List.map_id']

/-- Bytes to integers after integers to bytes keeps each lane modulo `2 ^ (8 * w)`, extended (R149). -/
theorem bytesToInts_intsToBytes {w : Nat} (hw : 0 < w) (hw8 : w ≤ 8) (signed le : Bool) (lanes : List Lane) :
    bytesToInts w signed le (intsToBytes w le lanes) =
      lanes.map fun v => BitVec.ofNat 64 (extendedValue w signed (v.toNat % 2 ^ (8 * w))) := by
  rw [bytesToInts_eq hw8, intsToBytes, completeGroups_flatMap hw (fun v => bytesOf_length w le (BitVec.toNat v)),
    List.map_map, List.map_map]
  simp [Function.comp_def, assemble_bytesOf, pow_256_eq]

/-- Reversed groups give the same integers in the other byte order (R149). -/
theorem bytesToInts_input_reversed {s u : State} {w : Nat} (hw8 : w ≤ 8) (signed le : Bool)
    (hlen : u.ilen = s.ilen)
    (hrev : ∀ k m, k < s.ilen.toNat / w → m < w → u.byteAt (w * k + m) = s.byteAt (w * k + (w - 1 - m))) :
    bytesToInts w signed (!le) (byteInput u.input) = bytesToInts w signed le (byteInput s.input) := by
  rw [State.bytesToInts_input u hw8, State.bytesToInts_input s hw8, hlen]
  refine laneTable_congr fun k hk => ?_
  rw [groupValue_reflect w le fun m hm => hrev k m hk hm]

/-- Two commands whose ops come to the same outcome leave the same STATUS and the same output (R31). -/
theorem State.runOp_eq_outputs {s u : State} {op op' : List Lane → Except OpError OpResult} (hlen : u.ilen = s.ilen)
    (hicap : u.icap = s.icap) (hocap : u.ocap = s.ocap) (hop : op' u.input = op s.input) :
    (u.runOp op').status = (s.runOp op).status ∧ (u.runOp op').olen = (s.runOp op).olen ∧
      (u.runOp op').obuf = (s.runOp op).obuf := by
  rw [State.runOp_eq, State.runOp_eq, hlen, hicap, hocap, hop]
  split
  · simp
  · cases op s.input with
    | error e => simp
    | ok r =>
      dsimp only
      split <;> simp

/-- Settles O38: the three laws on bytes and lanes (`intsToBytes_bytesToInts`, `bytesToInts_intsToBytes`,
`bytesToInts_input_reversed`), through the ports. -/
theorem integerRoundTrips : Obligations.IntegerRoundTrips := by
  constructor
  · intro le signed i j w s t u hi hj hfeed
    obtain ⟨hw, hw8⟩ := width_of_mem_bytesToIntOps hi
    have hopi (x : State) := opOf_bytesToIntOps hi x.arg0 x.arg1 x.input
    have hopj (x : State) := opOf_intToBytesOps hj x.arg0 x.arg1 x.input
    constructor
    · intro hroom ht hroom'
      have hlen : (bytesToInts w signed le (byteInput s.input)).length = s.ilen.toNat / w := by simp [bytesToInts]
      have hback : (intsToBytes w le u.input).map byteLane = asLanes (s.byteValues.take (w * (s.ilen.toNat / w))) := by
        rw [input_of_feedsInto (hopi s) (by rwa [hlen]) ht hfeed, intsToBytes_bytesToInts hw8, map_byteLane,
          List.map_take, ← State.byteValues_eq, byteInput_length, State.input_length]
      have hfit : (asLanes (s.byteValues.take (w * (s.ilen.toNat / w)))).length = s.ilen.toNat / w * w := by
        simp [asLanes, Nat.mul_div_le, Nat.mul_comm]
      exact exec_of_outputs ((hopj u).trans (congrArg outputs hback)) (by rwa [hfit])
    · intro hroom ht hroom'
      have hlen : ((intsToBytes w le s.input).map byteLane).length = s.ilen.toNat * w := by
        rw [State.intsToBytes_input, laneTable_length]
      have hback : bytesToInts w signed le (byteInput u.input) =
          laneTable s.ilen.toNat fun k => extendedValue w signed ((s.ibuf.read k).toNat % 2 ^ (8 * w)) := by
        rw [input_of_feedsInto (hopj s) (by rwa [hlen]) ht hfeed, byteInput_map_byteLane,
          bytesToInts_intsToBytes hw hw8]
        exact s.map_input fun v => extendedValue w signed (v % 2 ^ (8 * w))
      exact exec_of_outputs ((hopi u).trans (congrArg outputs hback)) (by rwa [laneTable_length])
  · intro le signed i j w s t u hi hj hlen hicap hocap hrev ht
    obtain ⟨-, hw8⟩ := width_of_mem_bytesToIntOps hi
    obtain rfl := exec_next ht
    refine ⟨_, exec_eq j u, State.runOp_eq_outputs hlen hicap hocap ?_⟩
    rw [opOf_bytesToIntOps hi, opOf_bytesToIntOps hj, bytesToInts_input_reversed hw8 signed le hlen hrev]

end Sys2Proof.Machine
end

section
/-! PROOFS. The statements on the float converter (43_floatconv.md). A pattern is taken as a number with a sign and a
magnitude field. `magnitude32` rises with the field, so a rounding is nearest once it is no farther than the two
neighbours' midpoints. -/

namespace Sys2Proof.Machine

/-! ### The fields of a pattern -/

/-- The fields that `widen32` cuts from a pattern, as quotients and remainders (R161). -/
theorem binary32_fields (p : Word32) :
    (p.extractLsb' 31 1).toNat = p.toNat / 2 ^ 31 ∧ (p.extractLsb' 23 8).toNat = p.toNat / 2 ^ 23 % 256 ∧
    (p.extractLsb' 0 23).toNat = p.toNat % 2 ^ 23 := by
  have := p.isLt
  simp only [BitVec.extractLsb'_toNat, Nat.shiftRight_eq_div_pow, true_and]
  omega

/-- The fields that `narrow64` cuts from a pattern, as quotients and remainders (R161). -/
theorem binary64_fields (p : Lane) :
    (p.extractLsb' 63 1).toNat = p.toNat / 2 ^ 63 ∧ (p.extractLsb' 52 11).toNat = p.toNat / 2 ^ 52 % 2048 ∧
    (p.extractLsb' 0 52).toNat = p.toNat % 2 ^ 52 := by
  have := p.isLt
  simp only [BitVec.extractLsb'_toNat, Nat.shiftRight_eq_div_pow, true_and]
  omega

/-- The binary64 pattern with the sign `s`, the exponent field `e` and the fraction `f` (R161). -/
def packed64 (s e f : Nat) : Nat := s * 2 ^ 63 + e * 2 ^ 52 + f

theorem toNat_ofNat_shifted_fields {s e f : Nat} (hs : s < 2) (he : e < 2048) (hf : f < 2 ^ 52) :
    (BitVec.ofNat 64 (s <<< 63 ||| e <<< 52 ||| f)).toNat = packed64 s e f := by
  rw [Nat.or_assoc, shiftLeft_or_eq_mul_add e hf, shiftLeft_or_eq_mul_add s (by omega), BitVec.toNat_ofNat, packed64]
  omega

theorem packed64_div (s : Nat) {e f : Nat} (he : e < 2048) (hf : f < 2 ^ 52) : packed64 s e f / 2 ^ 63 = s := by
  rw [packed64]
  omega

theorem packed64_mod (s : Nat) {e f : Nat} (he : e < 2048) (hf : f < 2 ^ 52) :
    packed64 s e f % 2 ^ 63 = e * 2 ^ 52 + f := by
  rw [packed64]
  omega

theorem magnitude64_packed64 (s : Nat) {e f : Nat} (he : e < 2048) (hf : f < 2 ^ 52) :
    magnitude64 (packed64 s e f) = if e = 0 then f else (2 ^ 52 + f) * 2 ^ (e - 1) := by
  have hexp : packed64 s e f / 2 ^ 52 % 2048 = e := by
    rw [packed64]
    omega
  have hfrac : packed64 s e f % 2 ^ 52 = f := by
    rw [packed64]
    omega
  simp only [magnitude64, hexp, hfrac]

/-! ### The one NaN -/

theorem nan32_iff (q : Nat) : nan32 q = true ↔ q / 2 ^ 23 % 256 = 255 ∧ q % 2 ^ 23 ≠ 0 := by
  rw [nan32, decide_eq_true_iff]
  omega

theorem nan64_iff (p : Nat) : nan64 p = true ↔ p / 2 ^ 52 % 2048 = 2047 ∧ p % 2 ^ 52 ≠ 0 := by
  rw [nan64, decide_eq_true_iff]
  omega

theorem isNaN64_eq_nan64 (p : Lane) : isNaN64 p = nan64 p.toNat := by
  obtain ⟨-, hexp, hfrac⟩ := binary64_fields p
  rw [Bool.eq_iff_iff, nan64_iff, ← hexp, ← hfrac]
  simp [isNaN64, ← BitVec.toNat_inj]

/-- The canonical NaN for every NaN, and every other pattern unchanged (R162). -/
theorem canonical64_toNat (p : Lane) : (canonical64 p).toNat = canonicalPattern p.toNat := by
  rw [canonical64, isNaN64_eq_nan64, canonicalPattern]
  split <;> rfl

theorem canonicalPattern_of_not_nan {p : Nat} (h : nan64 p = false) : canonicalPattern p = p := by
  rw [canonicalPattern, h]
  rfl

/-! ### Widening -/

/-- A widened pattern that is no NaN and no infinity, from its fields. -/
theorem widensTo_packed64 {q e f : Nat} (hq : q % 2 ^ 31 < 0x7F800000) (he : e < 2047) (hf : f < 2 ^ 52)
    (hmag : magnitude64 (packed64 (q / 2 ^ 31) e f) = magnitude32 q) :
    WidensTo q (packed64 (q / 2 ^ 31) e f) := by
  have hnan : ¬ nan32 q = true := by
    rw [nan32, decide_eq_true_iff]
    omega
  rw [WidensTo, if_neg hnan, if_neg (Nat.ne_of_lt hq), packed64_div _ (by omega) hf, packed64_mod _ (by omega) hf,
    hmag]
  omega

/-- Powers of two are multiplied without being computed. -/
theorem two_pow_mul_two_pow {a b c : Nat} (h : a + b = c) : 2 ^ a * 2 ^ b = 2 ^ c := by
  rw [← h, Nat.pow_add]

theorem two_pow_mul_two_pow_le {a b c d : Nat} (h : a + b ≤ c + d) : 2 ^ a * 2 ^ b ≤ 2 ^ c * 2 ^ d := by
  rw [← Nat.pow_add, ← Nat.pow_add]
  exact Nat.pow_le_pow_right Nat.two_pos h

/-- The leading one of a subnormal fraction, shifted out to the hidden bit (R163). -/
theorem subnormal_shift {m : Nat} (hm : m ≠ 0) (hlt : m < 2 ^ 23) :
    m.log2 < 23 ∧ (m - 2 ^ m.log2) * 2 ^ (52 - m.log2) + 2 ^ 52 = m * 2 ^ (52 - m.log2) ∧
    m * 2 ^ (52 - m.log2) < 2 ^ 53 := by
  have hk : m.log2 < 23 := (Nat.log2_lt hm).2 hlt
  have hle : 2 ^ m.log2 ≤ m := Nat.log2_self_le hm
  have htop : m < 2 ^ (m.log2 + 1) := Nat.lt_log2_self
  have hhidden : 2 ^ m.log2 * 2 ^ (52 - m.log2) = 2 ^ 52 := two_pow_mul_two_pow (by omega)
  refine ⟨hk, ?_, ?_⟩
  · rw [← hhidden, ← Nat.add_mul, Nat.sub_add_cancel hle]
  · calc m * 2 ^ (52 - m.log2) < 2 ^ (m.log2 + 1) * 2 ^ (52 - m.log2) :=
          Nat.mul_lt_mul_of_pos_right htop (Nat.two_pow_pos _)
      _ = 2 ^ 53 := by rw [Nat.pow_succ', Nat.mul_assoc, hhidden]; rfl

/-- A subnormal of binary32 is normal in binary64 (R163). -/
theorem widensTo_widen32_subnormal {p : Word32} (he : p.toNat / 2 ^ 23 % 256 = 0) (hm : p.toNat % 2 ^ 23 ≠ 0) :
    WidensTo p.toNat (widen32 p).toNat := by
  obtain ⟨hs, hexp, hfrac⟩ := binary32_fields p
  obtain ⟨hk, hshift, htop⟩ := subnormal_shift hm (Nat.mod_lt _ (by decide))
  have hsign : p.toNat / 2 ^ 31 < 2 := by omega
  set m := p.toNat % 2 ^ 23
  have hf : (m - 2 ^ m.log2) <<< (52 - m.log2) < 2 ^ 52 := by
    rw [Nat.shiftLeft_eq]
    omega
  have hpat : (widen32 p).toNat =
      packed64 (p.toNat / 2 ^ 31) (m.log2 + 874) ((m - 2 ^ m.log2) <<< (52 - m.log2)) := by
    simp only [widen32, hs, hexp, hfrac, he, hm, OfNat.zero_ne_ofNat, false_and, and_false, if_false, if_true]
    exact toNat_ofNat_shifted_fields hsign (by omega) hf
  rw [hpat]
  refine widensTo_packed64 (by omega) (by omega) hf ?_
  have hpow : 2 ^ (52 - m.log2) * 2 ^ (m.log2 + 874 - 1) = 2 ^ 925 := two_pow_mul_two_pow (by omega)
  have hmag : magnitude32 p.toNat = m * 2 ^ 925 := by simp only [magnitude32, he, if_true, m]
  rw [magnitude64_packed64 _ (by omega) hf, if_neg (Nat.succ_ne_zero _), Nat.shiftLeft_eq, Nat.add_comm, hshift, hmag,
    Nat.mul_assoc, hpow]

theorem widensTo_widen32_normal {p : Word32} (he : p.toNat / 2 ^ 23 % 256 ≠ 0) (he' : p.toNat / 2 ^ 23 % 256 ≠ 255) :
    WidensTo p.toNat (widen32 p).toNat := by
  obtain ⟨hs, hexp, hfrac⟩ := binary32_fields p
  have hsign : p.toNat / 2 ^ 31 < 2 := by omega
  have hf : (p.toNat % 2 ^ 23) <<< 29 < 2 ^ 52 := by
    rw [Nat.shiftLeft_eq]
    omega
  have hpat : (widen32 p).toNat =
      packed64 (p.toNat / 2 ^ 31) (p.toNat / 2 ^ 23 % 256 + 896) ((p.toNat % 2 ^ 23) <<< 29) := by
    simp only [widen32, hs, hexp, hfrac, he, he', false_and, if_false]
    exact toNat_ofNat_shifted_fields hsign (by omega) hf
  rw [hpat]
  refine widensTo_packed64 (by omega) (by omega) hf ?_
  have hpow : 2 ^ 29 * 2 ^ (p.toNat / 2 ^ 23 % 256 + 896 - 1) = 2 ^ (p.toNat / 2 ^ 23 % 256 - 1) * 2 ^ 925 :=
    (two_pow_mul_two_pow (by omega)).trans (two_pow_mul_two_pow rfl).symm
  have hsig : 2 ^ 52 + p.toNat % 2 ^ 23 * 2 ^ 29 = (2 ^ 23 + p.toNat % 2 ^ 23) * 2 ^ 29 := by omega
  rw [magnitude64_packed64 _ (by omega) hf]
  simp only [magnitude32, he, if_false]
  rw [if_neg (by omega), Nat.shiftLeft_eq, hsig, Nat.mul_assoc, hpow, Nat.mul_assoc]

/-- Settles O40: the five classes of R163. -/
theorem wideningKeepsTheValue : Obligations.WideningKeepsTheValue := by
  intro p
  obtain ⟨hs, hexp, hfrac⟩ := binary32_fields p
  have hsign : p.toNat / 2 ^ 31 < 2 := by have := p.isLt; omega
  by_cases hnan : p.toNat / 2 ^ 23 % 256 = 255 ∧ p.toNat % 2 ^ 23 ≠ 0
  · have hpat : widen32 p = canonicalNaN := by simp only [widen32, hexp, hfrac, if_pos hnan]
    rw [hpat, WidensTo, if_pos ((nan32_iff _).2 hnan)]
    rfl
  by_cases hinf : p.toNat / 2 ^ 23 % 256 = 255
  · have hpat : (widen32 p).toNat = packed64 (p.toNat / 2 ^ 31) 0x7FF 0 := by
      simp only [widen32, hs, hexp, hfrac, if_neg hnan, if_pos hinf]
      rw [← Nat.or_zero (_ ||| _)]
      exact toNat_ofNat_shifted_fields hsign (by decide) (by decide)
    have hfield : p.toNat % 2 ^ 31 = 0x7F800000 := by omega
    rw [hpat, WidensTo, if_neg (mt (nan32_iff _).1 hnan), if_pos hfield, packed64_div _ (by decide) (by decide),
      packed64_mod _ (by decide) (by decide)]
    exact ⟨rfl, rfl⟩
  by_cases hexp0 : p.toNat / 2 ^ 23 % 256 = 0
  · by_cases hzero : p.toNat % 2 ^ 23 = 0
    · have hpat : (widen32 p).toNat = packed64 (p.toNat / 2 ^ 31) 0 0 := by
        simp only [widen32, hs, hexp, hfrac, if_neg hnan, if_neg hinf, if_pos (And.intro hexp0 hzero)]
        rw [BitVec.toNat_ofNat, Nat.shiftLeft_eq, packed64]
        omega
      rw [hpat]
      refine widensTo_packed64 (by omega) (by decide) (by decide) ?_
      rw [magnitude64_packed64 _ (by decide) (by decide)]
      simp only [magnitude32, hexp0, hzero, if_true, Nat.zero_mul]
    · exact widensTo_widen32_subnormal hexp0 hzero
  · exact widensTo_widen32_normal hexp0 hinf

/-! ### The binary32 magnitudes in order -/

/-- In the binade `k` the field `k * 2 ^ 23 + n` is `n` units (R161): the subnormals and the first normals for `k = 0`,
the significands from `2 ^ 23` on for every `k`, and at `n = 2 ^ 24` the first of the next binade. -/
theorem magnitude32_binade {k n : Nat} (hkn : k = 0 ∨ 2 ^ 23 ≤ n) (hn : n ≤ 2 ^ 24) (hq : k * 2 ^ 23 + n < 2 ^ 31) :
    magnitude32 (k * 2 ^ 23 + n) = n * 2 ^ (k + 925) := by
  rcases Nat.lt_or_ge n (2 ^ 23) with hsub | hnormal
  · obtain rfl : k = 0 := by omega
    have hexp : n / 2 ^ 23 % 256 = 0 := by omega
    have hfrac : n % 2 ^ 23 = n := Nat.mod_eq_of_lt hsub
    rw [Nat.zero_mul, Nat.zero_add, Nat.zero_add]
    simp only [magnitude32, hexp, hfrac, if_true]
  rcases Nat.lt_or_eq_of_le hn with hlt | rfl
  · have hexp : (k * 2 ^ 23 + n) / 2 ^ 23 % 256 = k + 1 := by omega
    have hsig : 2 ^ 23 + (k * 2 ^ 23 + n) % 2 ^ 23 = n := by omega
    simp only [magnitude32, hexp, hsig, if_neg (Nat.succ_ne_zero k), Nat.add_sub_cancel, Nat.mul_assoc, ← Nat.pow_add]
  · have hexp : (k * 2 ^ 23 + 2 ^ 24) / 2 ^ 23 % 256 = k + 1 + 1 := by omega
    have hsig : 2 ^ 23 + (k * 2 ^ 23 + 2 ^ 24) % 2 ^ 23 = 2 ^ 23 := by omega
    have hpow : 2 ^ 23 * 2 ^ (k + 1) * 2 ^ 925 = 2 ^ 24 * 2 ^ (k + 925) := by
      rw [two_pow_mul_two_pow rfl]
      exact (two_pow_mul_two_pow (by omega)).trans (two_pow_mul_two_pow rfl).symm
    simp only [magnitude32, hexp, hsig, if_neg (Nat.succ_ne_zero (k + 1)), Nat.add_sub_cancel, hpow]

/-- Every magnitude field lies in a binade. -/
theorem exists_binade (q : Nat) : ∃ k n, q = k * 2 ^ 23 + n ∧ (k = 0 ∨ 2 ^ 23 ≤ n) ∧ n < 2 ^ 24 := by
  rcases Nat.lt_or_ge q (2 ^ 23) with hsub | hnormal
  · exact ⟨0, q, by omega, .inl rfl, by omega⟩
  · exact ⟨q / 2 ^ 23 - 1, 2 ^ 23 + q % 2 ^ 23, by omega, .inr (by omega), by omega⟩

theorem magnitude32_lt_succ {q : Nat} (hq : q + 1 < 2 ^ 31) : magnitude32 q < magnitude32 (q + 1) := by
  obtain ⟨k, n, rfl, hkn, hn⟩ := exists_binade q
  rw [Nat.add_assoc] at hq ⊢
  rw [magnitude32_binade hkn hn.le (by omega), magnitude32_binade (hkn.imp_right Nat.le_succ_of_le) hn hq]
  exact Nat.mul_lt_mul_of_pos_right (Nat.lt_succ_self n) (Nat.two_pow_pos _)

/-- A greater magnitude field is a greater magnitude. -/
theorem magnitude32_lt {g r : Nat} (hgr : g < r) (hr : r < 2 ^ 31) : magnitude32 g < magnitude32 r := by
  induction hgr with
  | refl => exact magnitude32_lt_succ hr
  | step _ ih => exact (ih (by omega)).trans (magnitude32_lt_succ hr)

theorem magnitude32_le {g r : Nat} (hgr : g ≤ r) (hr : r < 2 ^ 31) : magnitude32 g ≤ magnitude32 r := by
  rcases Nat.lt_or_eq_of_le hgr with hlt | rfl
  · exact (magnitude32_lt hlt hr).le
  · exact le_rfl

/-- The sign does not enter the magnitude. -/
theorem magnitude32_mod (q : Nat) : magnitude32 (q % 2 ^ 31) = magnitude32 q := by
  have hexp : q % 2 ^ 31 / 2 ^ 23 % 256 = q / 2 ^ 23 % 256 := by omega
  have hfrac : q % 2 ^ 31 % 2 ^ 23 = q % 2 ^ 23 := by omega
  simp only [magnitude32, hexp, hfrac]

/-- The infinity threshold is the first field of the last binade (R161). -/
theorem magnitude32_infinity : magnitude32 0x7F800000 = 2 ^ 23 * 2 ^ (254 + 925) := by
  have hfield : 0x7F800000 = 254 * 2 ^ 23 + 2 ^ 23 := rfl
  rw [hfield, magnitude32_binade (.inr le_rfl) (by decide) (by decide)]

/-! ### Nearest multiples -/

/-- `n * d` is the multiple of `d` nearest to `a`, the even one at a tie. -/
def NearestMultiple (a d n : Nat) : Prop :=
  (2 * a ≤ 2 * (n * d) + d ∧ (2 * a = 2 * (n * d) + d → n % 2 = 0)) ∧
  (2 * (n * d) ≤ 2 * a + d ∧ (2 * (n * d) = 2 * a + d → n % 2 = 0))

/-- What `roundShift` drops is at most half a unit, and at a half the number kept is even (R166). -/
theorem nearestMultiple_roundShift (a : Nat) {t : Nat} (ht : 0 < t) : NearestMultiple a (2 ^ t) (roundShift a t) := by
  have hhalf : 2 ^ t = 2 * 2 ^ (t - 1) := by rw [← Nat.pow_succ', Nat.succ_eq_add_one, Nat.sub_add_cancel ht]
  have hdiv : a / 2 ^ t * 2 ^ t + a % 2 ^ t = a := Nat.div_add_mod' a (2 ^ t)
  have hrem : a % 2 ^ t < 2 ^ t := Nat.mod_lt _ (Nat.two_pow_pos t)
  simp only [roundShift, Nat.shiftRight_eq_div_pow]
  rw [NearestMultiple]
  split
  · rw [Nat.add_one_mul (a / 2 ^ t)]
    omega
  · omega

theorem nearestMultiple_mul_right {a d n c : Nat} (hc : 0 < c) :
    NearestMultiple (a * c) (d * c) n ↔ NearestMultiple a d n := by
  have ha : 2 * (a * c) = 2 * a * c := (Nat.mul_assoc ..).symm
  have hn : 2 * (n * (d * c)) = 2 * (n * d) * c := by rw [← Nat.mul_assoc n, ← Nat.mul_assoc]
  simp only [NearestMultiple, ha, hn, ← Nat.add_mul, Nat.mul_le_mul_right_iff hc, Nat.mul_left_inj hc.ne']

theorem NearestMultiple.le_of_mul_le {a d n m : Nat} (h : NearestMultiple a d n) (hd : 0 < d) (hm : m * d ≤ a) :
    m ≤ n := by
  obtain ⟨⟨hle, -⟩, -⟩ := h
  by_contra hlt
  have := Nat.mul_le_mul_right d (Nat.lt_of_not_le hlt)
  rw [Nat.succ_mul] at this
  omega

theorem NearestMultiple.le_of_le_mul {a d n m : Nat} (h : NearestMultiple a d n) (hd : 0 < d) (hm : a ≤ m * d) :
    n ≤ m := by
  obtain ⟨-, hle, -⟩ := h
  by_contra hlt
  have := Nat.mul_le_mul_right d (Nat.lt_of_not_le hlt)
  rw [Nat.succ_mul] at this
  omega

/-! ### Nearest magnitudes -/

/-- Of all the magnitudes up to the infinity threshold, that of the field `r` is nearest to `x`, an even field at a tie
(R166). -/
def NearestField (x r : Nat) : Prop :=
  ∀ g, g ≤ 0x7F800000 →
    distance (magnitude32 r) x ≤ distance (magnitude32 g) x ∧
    (distance (magnitude32 r) x = distance (magnitude32 g) x → g ≠ r → r % 2 = 0)

/-- A field is nearest once `x` lies on its side of the midpoint with every other field. -/
theorem nearestField_of_midpoints {x r : Nat} (hr : r ≤ 0x7F800000)
    (hbelow : ∀ g < r, magnitude32 g + magnitude32 r ≤ 2 * x ∧ (magnitude32 g + magnitude32 r = 2 * x → r % 2 = 0))
    (habove : ∀ g, r < g → g ≤ 0x7F800000 →
      2 * x ≤ magnitude32 r + magnitude32 g ∧ (2 * x = magnitude32 r + magnitude32 g → r % 2 = 0)) :
    NearestField x r := by
  intro g hg
  simp only [distance]
  rcases Nat.lt_trichotomy g r with hlt | rfl | hgt
  · obtain ⟨hmid, htie⟩ := hbelow g hlt
    have := magnitude32_lt hlt (by omega)
    omega
  · simp
  · obtain ⟨hmid, htie⟩ := habove g hgt hg
    have := magnitude32_lt hgt (by omega)
    omega

/-- A magnitude of `2 ^ 128` or more is nearest to the infinity (R166). -/
theorem nearestField_infinity {x : Nat} (h : magnitude32 0x7F800000 ≤ x) : NearestField x 0x7F800000 := by
  refine nearestField_of_midpoints le_rfl (fun g hg => ?_) fun g hlt hle => absurd hlt (Nat.not_lt.2 hle)
  have := magnitude32_lt hg (by decide)
  omega

/-- Within its binade the nearest field is the nearest multiple of the binade's unit: the neighbours on the side of `x`
are one unit away. -/
theorem nearestField_of_nearestMultiple {x k n : Nat} (hkn : k = 0 ∨ 2 ^ 23 ≤ n) (hn : n ≤ 2 ^ 24)
    (hq : k * 2 ^ 23 + n ≤ 0x7F800000) (hlow : k = 0 ∨ 2 ^ 23 * 2 ^ (k + 925) ≤ x)
    (hhigh : x < 2 ^ 24 * 2 ^ (k + 925)) (h : NearestMultiple x (2 ^ (k + 925)) n) :
    NearestField x (k * 2 ^ 23 + n) := by
  obtain ⟨⟨hup, huptie⟩, hdown, hdowntie⟩ := h
  have hr : magnitude32 (k * 2 ^ 23 + n) = n * 2 ^ (k + 925) := magnitude32_binade hkn hn (by omega)
  refine nearestField_of_midpoints hq (fun g hg => ?_) fun g hg hle => ?_
  · have hlt := magnitude32_lt hg (by omega)
    rcases Nat.lt_or_ge x (n * 2 ^ (k + 925)) with hx | hx
    · have hpos : 0 < n := Nat.pos_of_mul_pos_right (Nat.zero_lt_of_lt hx)
      have hn' : k = 0 ∨ 2 ^ 23 ≤ n - 1 :=
        hlow.imp_right fun hlow => Nat.le_sub_one_of_lt (Nat.lt_of_mul_lt_mul_right (hlow.trans_lt hx))
      have hpred : magnitude32 (k * 2 ^ 23 + (n - 1)) = (n - 1) * 2 ^ (k + 925) :=
        magnitude32_binade hn' (by omega) (by omega)
      have hunit : n * 2 ^ (k + 925) = (n - 1) * 2 ^ (k + 925) + 2 ^ (k + 925) := by
        rw [← Nat.succ_mul, Nat.succ_eq_add_one, Nat.sub_add_cancel hpos]
      have hle : magnitude32 g ≤ magnitude32 (k * 2 ^ 23 + (n - 1)) := magnitude32_le (by omega) (by omega)
      omega
    · omega
  · have hlt := magnitude32_lt hg (by omega)
    rcases Nat.lt_or_ge (n * 2 ^ (k + 925)) x with hx | hx
    · have hn' : n < 2 ^ 24 := Nat.lt_of_mul_lt_mul_right (hx.trans hhigh)
      have hsucc : magnitude32 (k * 2 ^ 23 + (n + 1)) = (n + 1) * 2 ^ (k + 925) :=
        magnitude32_binade (by omega) hn' (by omega)
      rw [Nat.succ_mul] at hsucc
      have hge : magnitude32 (k * 2 ^ 23 + (n + 1)) ≤ magnitude32 g := magnitude32_le (by omega) (by omega)
      omega
    · omega

/-- A significand rounded to the units of its binade is the nearest field. `hx` says that `x` is `sig` in units that are
`2 ^ t` times smaller. -/
theorem nearestField_roundShift {x sig t k : Nat} (ht : 0 < t) (hx : x * 2 ^ t = sig * 2 ^ (k + 925))
    (hlow : k = 0 ∨ 2 ^ 23 * 2 ^ t ≤ sig) (hhigh : sig < 2 ^ 24 * 2 ^ t)
    (hq : k * 2 ^ 23 + roundShift sig t ≤ 0x7F800000) : NearestField x (k * 2 ^ 23 + roundShift sig t) := by
  have hd : 0 < 2 ^ t := Nat.two_pow_pos t
  have hu : 0 < 2 ^ (k + 925) := Nat.two_pow_pos _
  have hsig := nearestMultiple_roundShift sig ht
  have hscaled := (nearestMultiple_mul_right hu).2 hsig
  rw [← hx, Nat.mul_comm (2 ^ t), nearestMultiple_mul_right hd] at hscaled
  refine nearestField_of_nearestMultiple ?_ (hsig.le_of_le_mul hd hhigh.le) hq ?_ ?_ hscaled
  · exact hlow.imp_right (hsig.le_of_mul_le hd)
  · refine hlow.imp_right fun hlow => Nat.le_of_mul_le_mul_right ?_ hd
    rw [hx, Nat.mul_right_comm]
    exact Nat.mul_le_mul_right _ hlow
  · refine Nat.lt_of_mul_lt_mul_right (a := 2 ^ t) ?_
    rw [hx, Nat.mul_right_comm]
    exact Nat.mul_lt_mul_of_pos_right hhigh hu

/-! ### Narrowing -/

/-- Both branches of R166 in one: the field and the shift that do not apply are 0. -/
theorem narrowMagnitude_eq (e f : Nat) :
    narrowMagnitude e f =
      min ((e - 897) * 2 ^ 23 + roundShift (2 ^ 52 + f) (29 + (897 - e))) 0x7F800000 := by
  have hmag : (if e ≥ 897 then (e - 897) <<< 23 + roundShift (2 ^ 52 + f) 29
      else roundShift (2 ^ 52 + f) (29 + (897 - e))) =
      (e - 897) * 2 ^ 23 + roundShift (2 ^ 52 + f) (29 + (897 - e)) := by
    split
    case isTrue h => rw [Nat.shiftLeft_eq, Nat.sub_eq_zero_of_le h]
    case isFalse h => rw [Nat.sub_eq_zero_of_le (Nat.le_of_not_le h), Nat.zero_mul, Nat.zero_add]
  simp only [narrowMagnitude, hmag]
  split
  case isTrue h => exact (Nat.min_eq_right h).symm
  case isFalse h => exact (Nat.min_eq_left (Nat.le_of_not_le h)).symm

/-- The magnitude of a normal binary64 value is rounded to the nearest field (R166). -/
theorem nearestField_narrowMagnitude {e f : Nat} (he : 0 < e) (hf : f < 2 ^ 52) :
    NearestField ((2 ^ 52 + f) * 2 ^ (e - 1)) (narrowMagnitude e f) := by
  have hwide : 2 ^ 24 * 2 ^ 29 ≤ 2 ^ 24 * 2 ^ (29 + (897 - e)) := two_pow_mul_two_pow_le (by omega)
  have hhigh : 2 ^ 52 + f < 2 ^ 24 * 2 ^ (29 + (897 - e)) := by omega
  rw [narrowMagnitude_eq]
  rcases Nat.lt_or_ge 0x7F800000 ((e - 897) * 2 ^ 23 + roundShift (2 ^ 52 + f) (29 + (897 - e))) with hbig | hfit
  · rw [Nat.min_eq_right hbig.le]
    have hround : roundShift (2 ^ 52 + f) (29 + (897 - e)) ≤ 2 ^ 24 :=
      (nearestMultiple_roundShift _ (by omega)).le_of_le_mul (Nat.two_pow_pos _) hhigh.le
    have he' : 1150 ≤ e - 1 := by omega
    apply nearestField_infinity
    rw [magnitude32_infinity]
    calc 2 ^ 23 * 2 ^ (254 + 925) ≤ 2 ^ 52 * 2 ^ (e - 1) := two_pow_mul_two_pow_le (by omega)
      _ ≤ (2 ^ 52 + f) * 2 ^ (e - 1) := Nat.mul_le_mul_right _ (Nat.le_add_right ..)
  · rw [Nat.min_eq_left hfit]
    refine nearestField_roundShift (by omega) ?_ ?_ hhigh hfit
    · rw [Nat.mul_assoc, two_pow_mul_two_pow (c := e - 897 + 925) (by omega)]
    · rcases Nat.le_total e 897 with hle | hge
      · exact .inl (Nat.sub_eq_zero_of_le hle)
      · rw [Nat.sub_eq_zero_of_le hge]
        exact .inr (by omega)

/-- A binary64 subnormal is far below the least binary32 magnitude (R166). -/
theorem nearestField_zero {x : Nat} (hx : x < 2 ^ 52) : NearestField x 0 := by
  have hunit : 2 ^ 24 * 2 ^ 29 ≤ 2 ^ 0 * 2 ^ (0 + 925) := two_pow_mul_two_pow_le (by decide)
  refine nearestField_of_nearestMultiple (k := 0) (n := 0) (.inl rfl) (by decide) (by decide) (.inl rfl) ?_ ?_
  · omega
  · rw [NearestMultiple]
    omega

/-- A field with the sign of `p` is its rounding once it is nearest to a magnitude below infinity. -/
theorem roundsTo_of_nearestField {p r : Nat} (hp : p % 2 ^ 63 < 0x7FF0000000000000) (hr : r ≤ 0x7F800000)
    (h : NearestField (magnitude64 p) r) : RoundsTo p (p / 2 ^ 63 * 2 ^ 31 + r) := by
  have hnan : ¬ nan64 p = true := by
    rw [nan64, decide_eq_true_iff]
    omega
  have hsign : (p / 2 ^ 63 * 2 ^ 31 + r) / 2 ^ 31 = p / 2 ^ 63 := by omega
  have hfield : (p / 2 ^ 63 * 2 ^ 31 + r) % 2 ^ 31 = r := by omega
  have hparity : (p / 2 ^ 63 * 2 ^ 31 + r) % 2 = r % 2 := by omega
  rw [RoundsTo, if_neg hnan, if_neg (Nat.ne_of_lt hp), hsign, hfield, hparity]
  exact ⟨rfl, hr, h⟩

theorem toNat_ofNat_signed_field {s r : Nat} (hs : s < 2) (hr : r < 2 ^ 31) :
    (BitVec.ofNat 32 (s <<< 31 ||| r)).toNat = s * 2 ^ 31 + r := by
  rw [shiftLeft_or_eq_mul_add s hr, BitVec.toNat_ofNat]
  omega

/-- Settles O43: the classes of R166. -/
theorem narrowingRoundsToNearestEven : Obligations.NarrowingRoundsToNearestEven := by
  intro p
  obtain ⟨hs, hexp, hfrac⟩ := binary64_fields p
  have hsign : p.toNat / 2 ^ 63 < 2 := by have := p.isLt; omega
  by_cases hnan : p.toNat / 2 ^ 52 % 2048 = 2047 ∧ p.toNat % 2 ^ 52 ≠ 0
  · have hpat : narrow64 p = 0x7FC00000 := by simp only [narrow64, hexp, hfrac, if_pos hnan]
    rw [hpat, RoundsTo, if_pos ((nan64_iff _).2 hnan)]
    rfl
  by_cases hinf : p.toNat / 2 ^ 52 % 2048 = 2047
  · have hpat : (narrow64 p).toNat = p.toNat / 2 ^ 63 * 2 ^ 31 + 0x7F800000 := by
      simp only [narrow64, hs, hexp, hfrac, if_neg hnan, if_pos hinf]
      exact toNat_ofNat_signed_field hsign (by decide)
    have hfield : p.toNat % 2 ^ 63 = 0x7FF0000000000000 := by omega
    rw [hpat, RoundsTo, if_neg (mt (nan64_iff _).1 hnan), if_pos hfield]
    omega
  by_cases hexp0 : p.toNat / 2 ^ 52 % 2048 = 0
  · have hpat : (narrow64 p).toNat = p.toNat / 2 ^ 63 * 2 ^ 31 + 0 := by
      simp only [narrow64, hs, hexp, hfrac, if_neg hnan, if_neg hinf, if_pos hexp0]
      rw [← toNat_ofNat_signed_field hsign (by decide), Nat.or_zero]
    have hmag : magnitude64 p.toNat = p.toNat % 2 ^ 52 := by simp only [magnitude64, if_pos hexp0]
    rw [hpat]
    refine roundsTo_of_nearestField (by omega) (by decide) (nearestField_zero ?_)
    rw [hmag]
    exact Nat.mod_lt _ (by decide)
  · have hr : narrowMagnitude (p.toNat / 2 ^ 52 % 2048) (p.toNat % 2 ^ 52) ≤ 0x7F800000 := by
      rw [narrowMagnitude_eq]
      exact Nat.min_le_right ..
    have hpat : (narrow64 p).toNat =
        p.toNat / 2 ^ 63 * 2 ^ 31 + narrowMagnitude (p.toNat / 2 ^ 52 % 2048) (p.toNat % 2 ^ 52) := by
      simp only [narrow64, hs, hexp, hfrac, if_neg hnan, if_neg hinf, if_neg hexp0]
      exact toNat_ofNat_signed_field hsign (by omega)
    have hmag : magnitude64 p.toNat = (2 ^ 52 + p.toNat % 2 ^ 52) * 2 ^ (p.toNat / 2 ^ 52 % 2048 - 1) := by
      simp only [magnitude64, if_neg hexp0]
    rw [hpat]
    refine roundsTo_of_nearestField (by omega) hr ?_
    rw [hmag]
    exact nearestField_narrowMagnitude (Nat.pos_of_ne_zero hexp0) (Nat.mod_lt _ (by decide))

/-! ### The four ops -/

/-- The patterns of a state's complete groups, each through `f`, are a table by position (R164, R165). -/
theorem State.map_completeGroups (s : State) (w : Nat) (le : Bool) (f : Nat → Lane) :
    ((completeGroups w (byteInput s.input)).map fun g => f (assemble le g)) =
      laneTable (s.ilen.toNat / w) fun k => (f (groupValue w le s.byteAt (w * k))).toNat := by
  have hgroups := congrArg (List.map f) (s.map_assemble_completeGroups w le)
  rw [List.map_map, List.map_map] at hgroups
  simpa [laneTable, Function.comp_def] using hgroups

/-- The bytes of a state's lanes, each through `f`, are a table by position (R167, R168). -/
theorem State.flatMap_bytesOf_input (s : State) (w : Nat) (le : Bool) (f : Lane → Nat) :
    (s.input.flatMap fun v => bytesOf w le (f v)).map byteLane =
      laneTable (s.ilen.toNat * w) (valueByteAt w le fun k => f (s.ibuf.read k)) := by
  rw [map_byteLane, laneTable_eq_asLanes, ← flatMap_bytesOf_toNat, State.input, List.flatMap_map]

/-- A group of `w` bytes of the input is a number of `8 * w` bits (R131). -/
theorem State.groupValue_lt (s : State) {w k : Nat} (le : Bool) (hk : k < s.ilen.toNat / w) :
    groupValue w le s.byteAt (w * k) < 2 ^ (8 * w) := by
  have hmem : groupValue w le s.byteAt (w * k) ∈ (completeGroups w (byteInput s.input)).map (assemble le) := by
    rw [s.map_assemble_completeGroups]
    exact List.mem_map_of_mem (List.mem_range.2 hk)
  obtain ⟨g, hg, heq⟩ := List.mem_map.1 hmem
  rw [← pow_256_eq, ← heq, ← length_of_mem_completeGroups hg]
  exact assemble_lt le g

/-- Settles O39: the lanes are the rule's at every position (`State.map_completeGroups`). -/
theorem b2f32Result : Obligations.B2f32Result := by
  intro le s hroom
  have hop : opOf (.b2f32 le) s.arg0 s.arg1 s.input = outputs (laneTable (s.ilen.toNat / 4) fun k =>
      (widen32 (BitVec.ofNat 32 (groupValue 4 le s.byteAt (4 * k)))).toNat) :=
    congrArg outputs (s.map_completeGroups 4 le fun v => widen32 (BitVec.ofNat 32 v))
  exact exec_of_outputs hop (by simpa using hroom)

/-- Settles O41: the lanes are the rule's at every position, each NaN made canonical (`canonical64_toNat`). -/
theorem b2f64Result : Obligations.B2f64Result := by
  intro le s hroom
  have hpattern (k : Nat) (hk : k < s.ilen.toNat / 8) :
      (canonical64 (BitVec.ofNat 64 (groupValue 8 le s.byteAt (8 * k)))).toNat =
        canonicalPattern (groupValue 8 le s.byteAt (8 * k)) := by
    have hlt : groupValue 8 le s.byteAt (8 * k) < 2 ^ 64 := s.groupValue_lt le hk
    rw [canonical64_toNat, BitVec.toNat_ofNat, Nat.mod_eq_of_lt hlt]
  have hop : opOf (.b2f64 le) s.arg0 s.arg1 s.input = outputs (laneTable (s.ilen.toNat / 8) fun k =>
      canonicalPattern (groupValue 8 le s.byteAt (8 * k))) :=
    congrArg outputs
      ((s.map_completeGroups 8 le fun v => canonical64 (BitVec.ofNat 64 v)).trans (laneTable_congr hpattern))
  exact exec_of_outputs hop (by simpa using hroom)

/-- Settles O42: the bytes are the rule's at every position (`State.flatMap_bytesOf_input`). -/
theorem f32tobResult : Obligations.F32tobResult := by
  intro le s hroom
  have hop : opOf (.f32tob le) s.arg0 s.arg1 s.input = outputs (laneTable (s.ilen.toNat * 4)
      (valueByteAt 4 le fun k => (narrow64 (s.ibuf.read k)).toNat)) :=
    congrArg outputs (s.flatMap_bytesOf_input 4 le fun v => (narrow64 v).toNat)
  exact exec_of_outputs hop (by simpa using hroom)

/-- Settles O44: the bytes are the rule's at every position, each NaN made canonical (`canonical64_toNat`). -/
theorem f64tobResult : Obligations.F64tobResult := by
  intro le s hroom
  have hop : opOf (.f64tob le) s.arg0 s.arg1 s.input = outputs (laneTable (s.ilen.toNat * 8)
      (valueByteAt 8 le fun k => canonicalPattern (s.ibuf.read k).toNat)) := by
    simp only [← canonical64_toNat]
    exact congrArg outputs (s.flatMap_bytesOf_input 8 le fun v => (canonical64 v).toNat)
  exact exec_of_outputs hop (by simpa using hroom)

/-! ### The round trips -/

/-- The rounding of a pattern that is exactly a binary32 value is that value's pattern: only it is at distance 0 (R169). -/
theorem eq_of_widensTo_of_roundsTo {q l r : Nat} (hq : nan32 q = false) (hwiden : WidensTo q l)
    (hround : RoundsTo l r) : r = q := by
  have hfield : q % 2 ^ 31 ≤ 0x7F800000 := by simpa [nan32] using hq
  rw [WidensTo, hq] at hwiden
  obtain ⟨hsign, hwiden⟩ := hwiden
  have hnan : ¬ nan64 l = true := by
    rw [nan64, decide_eq_true_iff]
    split at hwiden <;> omega
  rw [RoundsTo, if_neg hnan] at hround
  obtain ⟨hsign', hfield', hround⟩ := hround
  have hmod : r % 2 ^ 31 = q % 2 ^ 31 := by
    split at hwiden
    case isTrue hinf =>
      rw [if_pos hwiden] at hround
      exact hround.trans hinf.symm
    case isFalse =>
      obtain ⟨hfinite, hmag⟩ := hwiden
      rw [if_neg (Nat.ne_of_lt hfinite)] at hround
      have hnear := (hround (q % 2 ^ 31) hfield).1
      rw [magnitude32_mod q, hmag, distance, distance, Nat.sub_self] at hnear
      have hsame : magnitude32 (r % 2 ^ 31) = magnitude32 (q % 2 ^ 31) := by
        rw [magnitude32_mod q]
        omega
      rcases Nat.lt_trichotomy (r % 2 ^ 31) (q % 2 ^ 31) with hlt | heq | hgt
      · exact absurd hsame (magnitude32_lt hlt (by omega)).ne
      · exact heq
      · exact absurd hsame (magnitude32_lt hgt (by omega)).ne'
  omega

/-- Narrowing undoes widening off the NaNs (R169). -/
theorem narrow64_widen32 {p : Word32} (h : nan32 p.toNat = false) : narrow64 (widen32 p) = p :=
  BitVec.eq_of_toNat_eq
    (eq_of_widensTo_of_roundsTo h (wideningKeepsTheValue p) (narrowingRoundsToNearestEven (widen32 p)))

/-- An op that gives the bytes of `h` of every lane undoes one that makes a lane with `f` of every group, where `h` undoes
`f` on the groups that stand in the input (R169). -/
theorem exec_roundTrip {i j : Instr} {le : Bool} {w : Nat} {f : Nat → Lane} {h : Lane → Nat} {s t u : State}
    (hi : opOf i s.arg0 s.arg1 s.input =
      outputs ((completeGroups w (byteInput s.input)).map fun g => f (assemble le g)))
    (hj : opOf j u.arg0 u.arg1 u.input = outputs ((u.input.flatMap fun v => bytesOf w le (h v)).map byteLane))
    (hback : ∀ k < s.ilen.toNat / w,
      h (f (groupValue w le s.byteAt (w * k))) = groupValue w le s.byteAt (w * k))
    (hroom : s.roomFor (s.ilen.toNat / w)) (hwhole : s.ilen.toNat % w = 0) (ht : exec i s = .next t)
    (hfeed : FeedsInto t u) (hroom' : u.roomFor s.ilen.toNat) :
    exec j u = .next (u.completed (asLanes s.byteValues) 0 0 0 0 0) := by
  have hgroup : ∀ g ∈ completeGroups w (byteInput s.input), bytesOf w le (h (f (assemble le g))) = g := by
    intro g hg
    have hmem := List.mem_map_of_mem (f := assemble le) hg
    rw [s.map_assemble_completeGroups] at hmem
    obtain ⟨k, hk, heq⟩ := List.mem_map.1 hmem
    rw [← heq, hback k (List.mem_range.1 hk), heq, ← length_of_mem_completeGroups hg, bytesOf_assemble]
  have hin := input_of_feedsInto hi (by simpa using hroom) ht hfeed
  have hout : (u.input.flatMap fun v => bytesOf w le (h v)).map byteLane = asLanes s.byteValues := by
    have hall : w * (s.ilen.toNat / w) = s.ilen.toNat := Nat.mul_div_cancel' (Nat.dvd_of_mod_eq_zero hwhole)
    rw [hin, List.flatMap_map, List.flatMap_def, List.map_congr_left hgroup, List.map_id', completeGroups_flatten,
      byteInput_length, State.input_length, hall, List.take_of_length_le (by simp), map_byteLane, ← State.byteValues_eq]
  exact exec_of_outputs (hj.trans (congrArg outputs hout)) (by simpa [asLanes] using hroom')

/-- Settles O45: off the NaNs canonicalising changes nothing, and narrowing undoes widening (`narrow64_widen32`). -/
theorem floatRoundTrips : Obligations.FloatRoundTrips := by
  intro le s t u hfeed hroom'
  constructor
  · intro hroom hwhole hnan ht
    refine exec_roundTrip (f := fun v => canonical64 (BitVec.ofNat 64 v)) (h := fun v => (canonical64 v).toNat)
      rfl rfl (fun k hk => ?_) hroom hwhole ht hfeed hroom'
    have hlt : groupValue 8 le s.byteAt (8 * k) < 2 ^ 64 := s.groupValue_lt le hk
    simp only [canonical64_toNat, BitVec.toNat_ofNat, Nat.mod_eq_of_lt hlt, canonicalPattern_of_not_nan (hnan k hk)]
  · intro hroom hwhole hnan ht
    refine exec_roundTrip (f := fun v => widen32 (BitVec.ofNat 32 v)) (h := fun v => (narrow64 v).toNat)
      rfl rfl (fun k hk => ?_) hroom hwhole ht hfeed hroom'
    have hlt : groupValue 4 le s.byteAt (4 * k) < 2 ^ 32 := s.groupValue_lt le hk
    have hpat : (BitVec.ofNat 32 (groupValue 4 le s.byteAt (4 * k))).toNat = groupValue 4 le s.byteAt (4 * k) := by
      rw [BitVec.toNat_ofNat, Nat.mod_eq_of_lt hlt]
    rw [narrow64_widen32 (by rw [hpat]; exact hnan k hk), hpat]

end Sys2Proof.Machine
end

section
/-! PROOFS. The statements on the SHA-1 engine (44_sha1.md). The padded message is cut where R182 changes from one kind of
byte to the next; schedule, rounds and blocks are each a list that grows at its end, and their relations hold of every
part from the start on. -/

namespace Sys2Proof.Machine

/-! ### Bytes by position -/

/-- The bytes of the list are the numbers of `x`, place by place. -/
def ByteTable (bs : List Byte) (x : Nat → Nat) : Prop := ∀ j (hj : j < bs.length), bs[j].toNat = x j

theorem State.byteTable_byteInput (s : State) : ByteTable (byteInput s.input) s.byteAt :=
  fun _ hj => s.byteInput_getElem_toNat hj

/-- A complete group holds the bytes from its first place on. -/
theorem ByteTable.group {w k : Nat} {b : List Byte} {x : Nat → Nat} (hx : ByteTable b x)
    (hk : k < (completeGroups w b).length) : ByteTable (completeGroups w b)[k] fun j => x (w * k + j) := by
  intro j hj
  have hgroup : (completeGroups w b)[k] = (b.drop (w * k)).take w := by
    rw [completeGroups_getElem, Nat.mul_comm]
  have hplace : w * k + j < b.length := by
    rw [hgroup, List.length_take, List.length_drop] at hj
    omega
  refine Eq.trans ?_ (hx _ hplace)
  simp [hgroup]

/-! ### The padded message -/

/-- `z`: the number of zero bytes in the padding of `n` bytes (R182). -/
def padZeros (n : Nat) : Nat := (64 - (n + 9) % 64) % 64

/-- The message, the byte 0x80, the zero bytes and the length fill whole blocks (R182). -/
theorem paddedLength_eq (n : Nat) : 64 * ((n + 8) / 64 + 1) = n + 1 + padZeros n + 8 := by
  rw [padZeros]
  omega

theorem paddedByteAt_message (x : Nat → Nat) {n j : Nat} (h : j < n) : paddedByteAt x n j = x j := if_pos h

theorem paddedByteAt_marker (x : Nat → Nat) (n : Nat) : paddedByteAt x n n = 0x80 := by simp [paddedByteAt]

theorem paddedByteAt_zeros (x : Nat → Nat) {n j : Nat} (h : j < padZeros n) : paddedByteAt x n (n + 1 + j) = 0 := by
  simp only [paddedByteAt, paddedLength_eq]
  rw [if_neg (by omega), if_neg (by omega), if_pos (by omega)]

theorem paddedByteAt_length (x : Nat → Nat) {n j : Nat} (h : j < 8) :
    paddedByteAt x n (n + 1 + padZeros n + j) = 8 * n / 256 ^ (8 - 1 - j) % 256 := by
  have hplace : n + 1 + padZeros n + 8 - 1 - (n + 1 + padZeros n + j) = 8 - 1 - j := by omega
  simp only [paddedByteAt, paddedLength_eq]
  rw [if_neg (by omega), if_neg (by omega), if_neg (by omega), hplace]

/-- The four parts of the padded message are those of R182's table by position. -/
theorem sha1Pad_toNat {bs : List Byte} {x : Nat → Nat} (hx : ByteTable bs x) :
    (sha1Pad bs).map BitVec.toNat =
      (List.range (64 * ((bs.length + 8) / 64 + 1))).map (paddedByteAt x bs.length) := by
  have hmessage : bs.map BitVec.toNat = (List.range bs.length).map (paddedByteAt x bs.length) :=
    List.ext_getElem (by simp) fun j hj _ => by
      have hj : j < bs.length := by simpa using hj
      simp [hx j hj, paddedByteAt_message x hj]
  have hzeros : (List.replicate (padZeros bs.length) (0 : Byte)).map BitVec.toNat =
      (List.range (padZeros bs.length)).map fun j => paddedByteAt x bs.length (bs.length + 1 + j) := by
    rw [List.map_congr_left fun j hj => paddedByteAt_zeros x (List.mem_range.1 hj)]
    simp
  have hbits : (bytesOf 8 false (8 * bs.length)).map BitVec.toNat =
      (List.range 8).map fun j => paddedByteAt x bs.length (bs.length + 1 + padZeros bs.length + j) := by
    rw [bytesOf_toNat]
    exact List.map_congr_left fun j hj => (paddedByteAt_length x (List.mem_range.1 hj)).symm
  rw [sha1Pad, ← padZeros, paddedLength_eq, List.range_add, List.range_add, List.range_succ]
  simp only [List.map_append, List.map_map, Function.comp_def, hmessage, hzeros, hbits]
  simp [paddedByteAt_marker]

/-- Settles O46: the parts of the padded message one by one (`sha1Pad_toNat`). -/
theorem sha1Padding : Obligations.Sha1Padding := by
  intro bs
  exact sha1Pad_toNat fun j hj => by rw [List.getD_eq_getElem _ _ hj]

theorem sha1Pad_length (bs : List Byte) : (sha1Pad bs).length = 64 * ((bs.length + 8) / 64 + 1) := by
  simpa using congrArg List.length (sha1Padding bs)

theorem ByteTable.pad {bs : List Byte} {x : Nat → Nat} (hx : ByteTable bs x) :
    ByteTable (sha1Pad bs) (paddedByteAt x bs.length) := by
  intro i hi
  have h := List.getElem_of_eq (sha1Pad_toNat hx) (by simpa using hi)
  simpa using h

/-! ### The schedule of a block -/

/-- The word that R184 puts at place `t`, from the words before it. -/
def scheduledWord (w : Nat → Word32) (t : Nat) : Word32 :=
  rotated (w (t - 3) ^^^ w (t - 8) ^^^ w (t - 14) ^^^ w (t - 16)) 1

/-- From place 16 on every word of the list, oldest first, is the one of R184. -/
def FollowsSchedule (ws : List Word32) : Prop :=
  ∀ t, 16 ≤ t → t < ws.length → ws.getD t 0 = scheduledWord (fun i => ws.getD i 0) t

/-- A word looks back on words that a longer list still holds at their places. -/
theorem scheduledWord_append (ws l : List Word32) {t : Nat} (h16 : 16 ≤ t) (ht : t ≤ ws.length) :
    scheduledWord (fun i => (ws ++ l).getD i 0) t = scheduledWord (fun i => ws.getD i 0) t := by
  simp only [scheduledWord]
  rw [List.getD_append _ _ _ _ (by omega), List.getD_append _ _ _ _ (by omega), List.getD_append _ _ _ _ (by omega),
    List.getD_append _ _ _ _ (by omega)]

theorem FollowsSchedule.append_scheduledWord {ws : List Word32} (h : FollowsSchedule ws) :
    FollowsSchedule (ws ++ [scheduledWord (fun i => ws.getD i 0) ws.length]) := by
  intro t h16 ht
  have ht : t ≤ ws.length := by simpa [Nat.lt_succ_iff] using ht
  rw [scheduledWord_append _ _ h16 ht]
  rcases Nat.lt_or_eq_of_le ht with hlt | rfl
  · rw [List.getD_append _ _ _ _ hlt, h t h16 hlt]
  · simp

/-- On the reversed list, newest first, one extension puts R184's word at the end of the list. -/
theorem sha1Extend_succ_reverse (k : Nat) {ws : List Word32} (h16 : 16 ≤ ws.length) :
    sha1Extend (k + 1) ws.reverse =
      sha1Extend k (ws ++ [scheduledWord (fun i => ws.getD i 0) ws.length]).reverse := by
  rw [sha1Extend, List.getD_reverse 2 (by omega), List.getD_reverse 7 (by omega), List.getD_reverse 13 (by omega),
    List.getD_reverse 15 (by omega), List.reverse_append]
  simp only [Nat.sub_sub]
  rfl

/-- Extending keeps the words there are and adds `k` words that follow R184. -/
theorem sha1Extend_spec (k : Nat) {ws : List Word32} (h16 : 16 ≤ ws.length) (h : FollowsSchedule ws) :
    ws <+: (sha1Extend k ws.reverse).reverse ∧ (sha1Extend k ws.reverse).reverse.length = ws.length + k ∧
      FollowsSchedule (sha1Extend k ws.reverse).reverse := by
  induction k generalizing ws with
  | zero => simpa [sha1Extend] using h
  | succ k ih =>
    rw [sha1Extend_succ_reverse k h16]
    obtain ⟨hkept, hlength, hfollows⟩ := ih (by simp; omega) h.append_scheduledWord
    refine ⟨(List.prefix_append _ _).trans hkept, ?_, hfollows⟩
    rw [hlength, List.length_append, List.length_singleton]
    omega

theorem sha1BlockWords_length {block : List Byte} (hlen : block.length = 64) : (sha1BlockWords block).length = 16 := by
  simp [sha1BlockWords, hlen]

/-- Word `t` of a block is its four bytes from `4 * t` on, most significant first (R184). -/
theorem sha1BlockWords_getD {block : List Byte} {x : Nat → Nat} (hlen : block.length = 64) (hx : ByteTable block x)
    {t : Nat} (ht : t < 16) :
    (sha1BlockWords block).getD t 0 = BitVec.ofNat 32 (groupValue 4 false x (4 * t)) := by
  have hk : t < (completeGroups 4 block).length := by simpa [hlen] using ht
  have hgroup := length_of_mem_completeGroups (List.getElem_mem hk)
  have hsum := assemble_eq_groupValue false x (completeGroups 4 block)[t] (4 * t) (hx.group hk)
  rw [hgroup] at hsum
  rw [List.getD_eq_getElem _ _ (by rw [sha1BlockWords_length hlen]; exact ht)]
  simp only [sha1BlockWords, List.getElem_map, hsum]

/-- The 80 words of a block's schedule (R184). -/
theorem sha1Schedule_spec {block : List Byte} {x : Nat → Nat} (hlen : block.length = 64) (hx : ByteTable block x) :
    (sha1Schedule block).length = 80 ∧ IsSchedule x fun t => (sha1Schedule block).getD t 0 := by
  have h16 := sha1BlockWords_length hlen
  obtain ⟨⟨l, hkept⟩, hlength, hfollows⟩ := sha1Extend_spec 64 (ws := sha1BlockWords block) h16.ge
    fun t h h' => absurd h (by omega)
  rw [← sha1Schedule] at hkept hlength hfollows
  rw [h16] at hlength
  refine ⟨hlength, fun t ht => ?_, fun t h16 ht => hfollows t h16 (by omega)⟩
  rw [← sha1BlockWords_getD hlen hx ht, ← hkept]
  exact List.getD_append _ _ _ _ (by omega)

/-! ### The rounds of a block -/

theorem sha1Rounds_append (t : Nat) (ws : List Word32) (w : Word32) (v : Sha1Words) :
    sha1Rounds t (ws ++ [w]) v = sha1Round (t + ws.length) w (sha1Rounds t ws v) := by
  induction ws generalizing t v with
  | nil => simp [sha1Rounds]
  | cons w' ws ih =>
    simp only [List.cons_append, sha1Rounds, forceWord_eq, ih, List.length_cons]
    rw [Nat.add_assoc, Nat.add_comm 1]

/-- The model's function and constant of a round are R185's. -/
theorem roundFunction_eq (t : Nat) (b c d : Word32) : roundFunction t b c d = (sha1F t b c d, sha1K t) := by
  simp only [roundFunction, sha1F, sha1K]
  split_ifs <;> rfl

/-- The working variables before round `t` are those after the first `t` words of the schedule (R185). -/
theorem areRounds_take {ws : List Word32} (hlen : ws.length = 80) (v : Sha1Words) :
    AreRounds (fun t => ws.getD t 0) fun t => sha1Rounds 0 (ws.take t) v := by
  intro t ht
  have hlt : t < ws.length := by omega
  have hround : sha1Rounds 0 (ws.take (t + 1)) v = sha1Round t (ws.getD t 0) (sha1Rounds 0 (ws.take t) v) := by
    rw [← List.take_concat_get' ws t hlt, sha1Rounds_append, List.getD_eq_getElem _ _ hlt, List.length_take,
      Nat.min_eq_left hlt.le, Nat.zero_add]
  simp only [hround, roundFunction_eq]
  exact ⟨rfl, rfl, rfl, rfl, rfl⟩

theorem blockTakes_sha1Compress {block : List Byte} {x : Nat → Nat} (hlen : block.length = 64) (hx : ByteTable block x)
    (h : Sha1Words) :
    BlockTakes x h (sha1Compress h block) := by
  obtain ⟨h80, hschedule⟩ := sha1Schedule_spec hlen hx
  refine ⟨_, _, hschedule, areRounds_take h80 h, rfl, ?_⟩
  simp only [List.take_of_length_le h80.le]
  rfl

/-! ### The blocks of a message -/

theorem sha1Blocks_eq_foldl (h : Sha1Words) (blocks : List (List Byte)) :
    sha1Blocks h blocks = blocks.foldl sha1Compress h := by
  induction blocks generalizing h with
  | nil => rfl
  | cons block t ih => simp only [sha1Blocks, forceWord_eq, ih, List.foldl_cons]

/-- The accumulators after the first `k` blocks of the padded message (R181). -/
def sha1After (bs : List Byte) (k : Nat) : Sha1Words :=
  sha1Blocks sha1Init ((completeGroups 64 (sha1Pad bs)).take k)

theorem sha1Pad_blocks_length (bs : List Byte) :
    (completeGroups 64 (sha1Pad bs)).length = (bs.length + 8) / 64 + 1 := by
  rw [completeGroups_length, sha1Pad_length, Nat.mul_div_cancel_left _ (by decide)]

theorem sha1Digest_eq_sha1After (bs : List Byte) : sha1Digest bs = sha1After bs ((bs.length + 8) / 64 + 1) := by
  rw [sha1After, List.take_of_length_le (sha1Pad_blocks_length bs).le, sha1Digest]

theorem sha1After_succ {bs : List Byte} {k : Nat} (hk : k < (completeGroups 64 (sha1Pad bs)).length) :
    sha1After bs (k + 1) = sha1Compress (sha1After bs k) (completeGroups 64 (sha1Pad bs))[k] := by
  rw [sha1After, sha1After, ← List.take_concat_get' _ k hk, sha1Blocks_eq_foldl, sha1Blocks_eq_foldl,
    List.foldl_append, List.foldl_cons, List.foldl_nil]

/-- Block `k` of the padded message takes the accumulators from `k` to `k + 1` (R181). -/
theorem blockTakes_sha1After {bs : List Byte} {x : Nat → Nat} (hx : ByteTable bs x) {k : Nat}
    (hk : k < (bs.length + 8) / 64 + 1) :
    BlockTakes (fun j => paddedByteAt x bs.length (64 * k + j)) (sha1After bs k) (sha1After bs (k + 1)) := by
  have hlt : k < (completeGroups 64 (sha1Pad bs)).length := by rwa [sha1Pad_blocks_length]
  have hlen := length_of_mem_completeGroups (List.getElem_mem hlt)
  rw [sha1After_succ hlt]
  exact blockTakes_sha1Compress hlen (hx.pad.group hlt) _

/-! ### The digest text -/

theorem hexChar_toNat {d : Nat} (hd : d < 16) : (hexChar d).toNat = if d < 10 then 48 + d else 87 + d := by
  rw [hexChar, BitVec.toNat_ofNat]
  split <;> omega

/-- Accumulator `k` gives the characters from `8 * k` on (R186). -/
theorem hexWord_toNat (h : Sha1Words) (k : Nat) :
    (hexWord (h.word k)).map BitVec.toNat = (List.range 8).map fun j => digestCharAt h (8 * k + j) := by
  rw [hexWord, List.map_map]
  refine List.map_congr_left fun j hj => ?_
  have hj : j < 8 := List.mem_range.1 hj
  have hdiv : (8 * k + j) / 8 = k := by omega
  have hmod : (8 * k + j) % 8 = j := by omega
  have hpow : 2 ^ (4 * (7 - j)) = 16 ^ (7 - j) := pow_mul 2 4 (7 - j)
  simp only [Function.comp_apply, digestCharAt, hdiv, hmod, and_fifteen, Nat.shiftRight_eq_div_pow, hpow]
  exact hexChar_toNat (Nat.mod_lt _ (by decide))

theorem sha1Text_toNat (h : Sha1Words) : (sha1Text h).map BitVec.toNat = (List.range 40).map (digestCharAt h) := by
  have hrange : List.range 40 = (List.range 5).flatMap fun k => (List.range 8).map fun j => 8 * k + j := by decide
  have hwords : sha1Text h = (List.range 5).flatMap fun k => hexWord (h.word k) := by
    simp [sha1Text, List.range_succ, Sha1Words.word]
  simp only [hwords, hrange, List.map_flatMap, hexWord_toNat, List.map_map, Function.comp_def]

theorem sha1Format_out (h : Sha1Words) : (sha1Format h).out = laneTable 40 (digestCharAt h) := by
  rw [laneTable_eq_asLanes, ← sha1Text_toNat, ← map_byteLane, sha1Format]

/-- Settles O47: the accumulators at `k` are those after the first `k` blocks (`sha1After`). -/
theorem sha1Result : Obligations.Sha1Result := by
  intro s hroom
  have hlen : (byteInput s.input).length = s.ilen.toNat := by simp
  have hdigest := sha1Digest_eq_sha1After (byteInput s.input)
  rw [hlen] at hdigest
  refine ⟨sha1After (byteInput s.input), rfl, fun k hk => ?_, ?_⟩
  · rw [← hlen] at hk ⊢
    exact blockTakes_sha1After s.byteTable_byteInput hk
  · rw [← hdigest, exec_eq, State.runOp_ok hroom.1 rfl (by rw [sha1Format_out, laneTable_length]; exact hroom.2),
      sha1Format_out]
    rfl

end Sys2Proof.Machine
end

section
/-! PROOFS. What the transcoder ops share (R201): the decoding loop goes unit by unit (`ReadsUnit`, `ReadsText`), so that a
bytes-to-codepoints op obeys the rules for well-formed and malformed input as soon as its units are known (`DecodesUnits`);
the encoding loop goes lane by lane. -/

namespace Sys2Proof.Machine

/-! ### Numbers as bytes -/

theorem asBytes_append (xs ys : List Nat) : asBytes (xs ++ ys) = asBytes xs ++ asBytes ys := List.map_append

@[simp] theorem asBytes_length (xs : List Nat) : (asBytes xs).length = xs.length := by simp [asBytes]

theorem map_toNat_asBytes {xs : List Nat} (h : ∀ x ∈ xs, x < 256) : (asBytes xs).map BitVec.toNat = xs := by
  rw [asBytes, List.map_map]
  exact (List.map_congr_left fun x hx => by simp [Nat.mod_eq_of_lt (h x hx)]).trans xs.map_id

theorem State.byteInput_input_eq_asBytes (s : State) : byteInput s.input = asBytes s.byteValues :=
  s.byteInput_input_eq

/-! ### Codepoints that may be carried -/

/-- The model's two tests, on the range and on surrogate halves, are R201's condition. -/
theorem isCarried_eq (surr : Bool) (cp : Nat) :
    isCarried surr cp = (decide (cp ≤ maxCodepoint) && !(isSurrogate cp && !surr)) := by
  simp only [isCarried, isScalar, maxCodepoint, isSurrogate]
  grind

/-- A surrogate half is carried only with ALLOW_SURR (R201 (f)). -/
theorem surr_of_isCarried_half {surr : Bool} {cp : Nat} (h : isCarried surr cp = true) (hlow : 0xD800 ≤ cp)
    (hhigh : cp ≤ 0xDFFF) : surr = true := by
  simpa [isCarried, isScalar, hlow, hhigh] using h

theorem isCarried_of_not_half (surr : Bool) {cp : Nat} (hmax : cp ≤ 0x10FFFF) (h : ¬(0xD800 ≤ cp ∧ cp ≤ 0xDFFF)) :
    isCarried surr cp = true := by
  simp only [isCarried, isScalar]
  grind

theorem isCarried_replacement (surr : Bool) : isCarried surr replacement = true := by
  cases surr <;> rfl

theorem le_of_isCarried {surr : Bool} {cp : Nat} (h : isCarried surr cp = true) : cp ≤ 0x10FFFF := by
  rw [isCarried_eq] at h
  grind [maxCodepoint]

theorem writtenCodepoint_of_isCarried {surr : Bool} {cp : Nat} (h : isCarried surr cp = true) :
    writtenCodepoint surr cp = cp := if_pos h

/-! ### Loops that may raise -/

theorem prependOk_append {α : Type} (xs ys : List α) (r : Except OpError (List α)) :
    prependOk (xs ++ ys) r = prependOk xs (prependOk ys r) := by
  cases r <;> simp

theorem prependOk_nil {α : Type} (r : Except OpError (List α)) : prependOk [] r = r := by
  cases r <;> rfl

/-! ### The decoding loop -/

section
variable {unitAt : Byte → List Byte → CodeUnit} {strict : Bool}

/-- The bytes `unit`, with `rest` after them, are one unit: well-formed with a value, or malformed (R205, R227). -/
def ReadsUnit (unitAt : Byte → List Byte → CodeUnit) (value : Option Nat) (unit rest : List Byte) : Prop :=
  ∃ b t, unit = b :: t ∧ unitAt b (t ++ rest) = ⟨t.length + 1, value⟩

/-- The bytes `text`, with `rest` after them, are well-formed units whose values are `cps`. -/
inductive ReadsText (unitAt : Byte → List Byte → CodeUnit) (rest : List Byte) : List Nat → List Byte → Prop where
  | nil : ReadsText unitAt rest [] []
  | cons {cp : Nat} {cps : List Nat} {unit text : List Byte} (first : ReadsUnit unitAt (some cp) unit (text ++ rest))
      (others : ReadsText unitAt rest cps text) : ReadsText unitAt rest (cp :: cps) (unit ++ text)

/-- A unit gives its value, or in lenient mode U+FFFD when it is malformed, and the loop goes on behind it (R201 (c)). -/
theorem decodeFrom_of_unit {value : Option Nat} {unit rest : List Byte} (h : ReadsUnit unitAt value unit rest)
    (hlenient : value = none → strict = false) (i : Nat) :
    decodeFrom unitAt strict i 0 (unit ++ rest) =
      prependOk [value.getD replacement] (decodeFrom unitAt strict (i + unit.length) 0 rest) := by
  obtain ⟨b, t, rfl, hunit⟩ := h
  have hskip := decodeFrom_skip unitAt strict (i + 1) t.length t rest rfl
  have hnext : i + (b :: t).length = i + 1 + t.length := by
    rw [List.length_cons]
    omega
  rw [List.cons_append, decodeFrom, hunit, hnext]
  cases value with
  | some cp => exact congrArg (prependOk [cp]) hskip
  | none =>
    rw [hlenient rfl] at hskip ⊢
    exact congrArg (prependOk [replacement]) hskip

/-- A malformed unit in strict mode (R201 (d)). -/
theorem decodeFrom_strict_of_malformed {unit rest : List Byte} (h : ReadsUnit unitAt none unit rest) (i : Nat) :
    decodeFrom unitAt true i 0 (unit ++ rest) = .error ⟨.format, i, (unit.headD 0).toNat⟩ := by
  obtain ⟨b, t, rfl, hunit⟩ := h
  rw [List.cons_append, decodeFrom, hunit]
  rfl

/-- The loop takes well-formed text in whole, in both modes. -/
theorem decodeFrom_of_text {cps : List Nat} {text rest : List Byte} (h : ReadsText unitAt rest cps text) (i : Nat) :
    decodeFrom unitAt strict i 0 (text ++ rest) =
      prependOk cps (decodeFrom unitAt strict (i + text.length) 0 rest) := by
  induction h generalizing i with
  | nil => exact (prependOk_nil _).symm
  | @cons cp cps unit text first others ih =>
    rw [List.append_assoc, decodeFrom_of_unit first (by simp), ih, ← prependOk_append, List.length_append, Nat.add_assoc]
    rfl

/-- In lenient mode the loop does not report where it stands. -/
theorem decodeFrom_lenient_index (i j k : Nat) (bs : List Byte) :
    decodeFrom unitAt false i k bs = decodeFrom unitAt false j k bs := by
  induction bs generalizing i j k with
  | nil => rfl
  | cons b t ih =>
    cases k with
    | succ k =>
      rw [decodeFrom, decodeFrom]
      exact ih _ _ k
    | zero =>
      rw [decodeFrom, decodeFrom, ih (i + 1) (j + 1)]
      rfl

/-- In lenient mode the loop ends with at most one codepoint for each byte (R201 (b) and (c)). -/
theorem decodeFrom_lenient_total {surr : Bool}
    (hvalue : ∀ b t cp, (unitAt b t).value = some cp → isCarried surr cp = true) (i k : Nat) (bs : List Byte) :
    ∃ cps, decodeFrom unitAt false i k bs = .ok cps ∧ cps.length ≤ bs.length ∧ cps.all (isCarried surr) = true := by
  induction bs generalizing i k with
  | nil => exact ⟨[], rfl, Nat.le_refl 0, rfl⟩
  | cons b t ih =>
    cases k with
    | succ k =>
      obtain ⟨cps, hcps, hlen, hall⟩ := ih (i + 1) k
      exact ⟨cps, hcps, Nat.le_succ_of_le hlen, hall⟩
    | zero =>
      obtain ⟨cps, hcps, hlen, hall⟩ := ih (i + 1) ((unitAt b t).len - 1)
      rw [decodeFrom, hcps]
      cases hv : (unitAt b t).value with
      | some cp => exact ⟨cp :: cps, rfl, Nat.succ_le_succ hlen, by simp [hvalue b t cp hv, hall]⟩
      | none => exact ⟨replacement :: cps, rfl, Nat.succ_le_succ hlen, by simp [isCarried_replacement, hall]⟩

end

/-! ### The output of a completed command -/

/-- A delivered output is told by the state that the command leaves, as long as its length is a 64-bit number. -/
theorem State.completed_injective {s : State} {xs ys : List Lane} {r0 r1 r2 r3 r4 q0 q1 q2 q3 q4 : Lane}
    (hxs : xs.length < 2 ^ 64) (hys : ys.length < 2 ^ 64)
    (h : s.completed xs r0 r1 r2 r3 r4 = s.completed ys q0 q1 q2 q3 q4) : xs = ys := by
  have holen := congrArg State.olen h
  have hobuf := congrArg State.obuf h
  rw [State.completed_olen, State.completed_olen] at holen
  rw [State.completed_obuf, State.completed_obuf] at hobuf
  have hlen : xs.length = ys.length := by
    have := congrArg BitVec.toNat holen
    rwa [BitVec.toNat_ofNat, BitVec.toNat_ofNat, Nat.mod_eq_of_lt hxs, Nat.mod_eq_of_lt hys] at this
  refine List.ext_getElem hlen fun k hk hk' => ?_
  have hread := congrArg (Memory.read · k) hobuf
  simpa [hk, hk'] using hread

/-! ### The bytes-to-codepoints ops -/

theorem codepointOutputs_ok (cps : List Nat) : codepointOutputs (.ok cps) = outputs (asLanes cps) := rfl

/-- The op reads a mark as R204 and R222 say, and then the units of `unitAt` in the byte order that this leaves. -/
def DecodesUnits (op : Bool → Bool → Bool → Instr) (form : Bool → Nat → List Nat)
    (unitAt : Bool → Byte → List Byte → CodeUnit) : Prop :=
  ∀ (le flag strict bom : Bool) (s : State) (mark body : List Nat),
    MarkRead form le flag bom mark body → s.byteValues = mark ++ body →
    opOf (op flag strict bom) s.arg0 s.arg1 s.input =
      codepointOutputs (decodeFrom (unitAt le) strict mark.length 0 (asBytes body))

section
variable {op : Bool → Bool → Bool → Instr} {form : Bool → Nat → List Nat} {unitAt : Bool → Byte → List Byte → CodeUnit}
  {text : Bool → List Nat → List Nat → Prop} {malformed : Bool → List Nat → List Nat → Prop}

theorem DecodesUnits.wellFormedTextRule (hop : DecodesUnits op form unitAt)
    (htext : ∀ le cps body, text le cps body → ReadsText (unitAt le) [] cps (asBytes body)) :
    WellFormedTextRule op form text := by
  intro le flag strict bom s mark body cps hroom hbody hmark hbytes
  have hcps : decodeFrom (unitAt le) strict mark.length 0 (asBytes body) = .ok cps := by
    have h := decodeFrom_of_text (strict := strict) (htext le cps body hbody) mark.length
    simpa [decodeFrom] using h
  refine exec_of_outputs ?_ (by simpa using hroom)
  rw [hop le flag strict bom s mark body hmark hbytes, hcps]
  rfl

/-- A completed command's op gave an output sequence, and that output is the state's. -/
theorem opOf_of_exec_completed {i : Instr} {u : State} {r : Except OpError (List Nat)} {out : List Lane}
    (hop : opOf i u.arg0 u.arg1 u.input = codepointOutputs r) (hlen : out.length < 2 ^ 64)
    (h : exec i u = .next (u.completed out 0 0 0 0 0)) : ∃ cps, r = .ok cps ∧ asLanes cps = out := by
  have hrun := exec_next h
  rcases State.runOp_branches u (opOf i u.arg0 u.arg1) with
    ⟨-, hend⟩ | ⟨e, -, hend⟩ | ⟨-, -, -, hend⟩ | ⟨res, hres, hfit, hend⟩
  · exact absurd (congrArg State.status (hrun.trans hend)) (by simp)
  · exact absurd (congrArg State.status (hrun.trans hend)).symm (by simpa using e.code.report_ne_done)
  · exact absurd (congrArg State.status (hrun.trans hend)) (by simp)
  · rw [hop] at hres
    cases r with
    | error e => cases hres
    | ok cps =>
      cases hres
      have hfit' : (asLanes cps).length < 2 ^ 64 := Nat.lt_of_le_of_lt hfit u.ocap.isLt
      exact ⟨cps, rfl, State.completed_injective hfit' hlen (hrun.trans hend).symm⟩

theorem DecodesUnits.malformedUnitRule (hop : DecodesUnits op form unitAt)
    (htext : ∀ le cps body unit rest, text le cps body → malformed le unit rest →
      (∀ x ∈ unit ++ rest, x < 256) → ReadsText (unitAt le) (asBytes (unit ++ rest)) cps (asBytes body))
    (hunit : ∀ le unit rest, malformed le unit rest → (∀ x ∈ unit ++ rest, x < 256) →
      ReadsUnit (unitAt le) none (asBytes unit) (asBytes rest)) :
    MalformedUnitRule op form text malformed := by
  intro le flag bom s mark body cps unit rest hready hbody hmal hmark hbytes
  rw [List.append_assoc, List.append_assoc] at hbytes
  rw [List.append_assoc] at hmark
  have hlt : ∀ x ∈ unit ++ rest, x < 256 := fun x hx => s.byteValues_lt x (by
    rw [hbytes]
    exact List.mem_append_right _ (List.mem_append_right _ hx))
  have hfirst := hunit le unit rest hmal hlt
  have hread := htext le cps body unit rest hbody hmal hlt
  have hdecode (strict : Bool) := decodeFrom_of_text (strict := strict) hread mark.length
  simp only [asBytes_append, asBytes_length] at hdecode
  have hstart (strict : Bool) := hop le flag strict bom s mark _ hmark hbytes
  simp only [asBytes_append] at hstart
  constructor
  · have herr : opOf (op flag true bom) s.arg0 s.arg1 s.input =
        .error ⟨.format, mark.length + body.length, unit.headD 0⟩ := by
      have hhead : ((asBytes unit).headD 0).toNat = unit.headD 0 := by
        cases unit with
        | nil => rfl
        | cons b t => simpa [asBytes] using hlt b (by simp)
      rw [hstart, hdecode, decodeFrom_strict_of_malformed hfirst, hhead]
      rfl
    rw [exec_eq, State.runOp_error hready herr]
    rfl
  · intro u out hrest hu hfit
    have hopu : opOf (op le false false) u.arg0 u.arg1 u.input =
        codepointOutputs (decodeFrom (unitAt le) false 0 0 (asBytes rest)) :=
      hop le le false false u [] rest (.inr ⟨rfl, rfl, by simp⟩) hrest
    obtain ⟨tail, htail, rfl⟩ := opOf_of_exec_completed hopu (by omega) hu
    refine exec_of_outputs ?_ ⟨hready, by simpa [asLanes, Nat.add_assoc, Nat.add_comm 1] using hfit⟩
    rw [hstart, hdecode, decodeFrom_of_unit hfirst fun _ => rfl, decodeFrom_lenient_index _ 0, htail]
    simp [codepointOutputs_ok, asLanes, replacement]

end

/-! ### The byte-order mark -/

/-- Comparing the first bytes of the input with a mark, as the model does, is asking whether the mark stands first. -/
theorem take_asBytes_eq_iff {m xs : List Nat} (hm : ∀ x ∈ m, x < 256) (hxs : ∀ x ∈ xs, x < 256) :
    (asBytes xs).take m.length = asBytes m ↔ m <+: xs := by
  rw [List.prefix_iff_eq_take]
  constructor
  · intro h
    have := congrArg (List.map BitVec.toNat) h
    rw [List.map_take, map_toNat_asBytes hxs, map_toNat_asBytes hm] at this
    exact this.symm
  · intro h
    rw [asBytes, ← List.map_take, ← h]
    rfl

/-- What stands behind a mark that is taken off is decoded from the mark's length on. -/
theorem decodeFrom_after_mark (unitAt : Byte → List Byte → CodeUnit) (strict : Bool) (mark body : List Nat) :
    decodeFrom unitAt strict 0 mark.length (asBytes (mark ++ body)) =
      decodeFrom unitAt strict mark.length 0 (asBytes body) := by
  rw [asBytes_append, decodeFrom_skip unitAt strict 0 _ _ _ (asBytes_length mark), Nat.zero_add]

/-! ### The encoding loop -/

section
variable {put : Nat → List Byte} {strict surr : Bool}

/-- A lane at which no codepoints-to-bytes op raises an error (R201 (g), R206). -/
def LaneRaisesNothing (strict surr : Bool) (v : Lane) : Prop :=
  v.toNat ≤ 0x10FFFF ∧ (strict = true → isCarried surr v.toNat = true)

theorem encodeFrom_cons_of_raisesNothing {v : Lane} (h : LaneRaisesNothing strict surr v) (k : Nat) (t : List Lane) :
    encodeFrom put strict surr k (v :: t) =
      prependOk (put (writtenCodepoint surr v.toNat)) (encodeFrom put strict surr (k + 1) t) := by
  obtain ⟨hmax, hstrict⟩ := h
  have hcarried : isCarried surr v.toNat = !(isSurrogate v.toNat && !surr) := by
    simp [isCarried_eq, maxCodepoint, hmax]
  rw [encodeFrom, if_neg (by simpa [maxCodepoint] using hmax)]
  split
  · next hhalf =>
    rw [hhalf] at hcarried
    have hlenient : strict ≠ true := fun hs => by simp [hstrict hs] at hcarried
    rw [if_neg hlenient, writtenCodepoint, hcarried]
    rfl
  · next hhalf =>
    rw [Bool.not_eq_true] at hhalf
    rw [writtenCodepoint_of_isCarried (by rw [hcarried, hhalf]; rfl)]

/-- The loop puts out the form of every lane in front of the first one that raises an error. -/
theorem encodeFrom_append {pre : List Lane} (h : ∀ v ∈ pre, LaneRaisesNothing strict surr v) (k : Nat) (rest : List Lane) :
    encodeFrom put strict surr k (pre ++ rest) =
      prependOk (pre.flatMap fun v => put (writtenCodepoint surr v.toNat))
        (encodeFrom put strict surr (k + pre.length) rest) := by
  induction pre generalizing k with
  | nil => exact (prependOk_nil _).symm
  | cons v t ih =>
    obtain ⟨hv, ht⟩ := List.forall_mem_cons.1 h
    rw [List.cons_append, encodeFrom_cons_of_raisesNothing hv, ih ht, ← prependOk_append, List.flatMap_cons,
      List.length_cons, Nat.add_assoc, Nat.add_comm 1]

/-- E_RANGE, in both modes (R206). -/
theorem encodeFrom_cons_of_above {v : Lane} (h : 0x10FFFF < v.toNat) (k : Nat) (t : List Lane) :
    encodeFrom put strict surr k (v :: t) = .error ⟨.range, k, v.toNat⟩ := by
  rw [encodeFrom, if_pos (show v.toNat > maxCodepoint from h)]

/-- E_FORMAT, in strict mode without ALLOW_SURR (R206). -/
theorem encodeFrom_cons_of_half {v : Lane} (h : 0xD800 ≤ v.toNat ∧ v.toNat ≤ 0xDFFF) (k : Nat) (t : List Lane) :
    encodeFrom put true false k (v :: t) = .error ⟨.format, k, v.toNat⟩ := by
  rw [encodeFrom, if_neg (by simp only [maxCodepoint]; omega), if_pos (by simpa [isSurrogate] using h), if_pos rfl]

end

end Sys2Proof.Machine
end

section
/-! PROOFS. The codepoints-to-bytes ops (R206, R224, R226): the model's encoders write the tables of R202 and R221. -/

namespace Sys2Proof.Machine

/-! ### The UTF-8 form -/

/-- The bits of a lead byte and of a continuation byte do not overlap with the codepoint's (R202). -/
theorem or_lead_two : ∀ x < 32, 0xC0 ||| x = 0xC0 + x := by decide
theorem or_lead_three : ∀ x < 16, 0xE0 ||| x = 0xE0 + x := by decide
theorem or_lead_four : ∀ x < 8, 0xF0 ||| x = 0xF0 + x := by decide
theorem or_continuation : ∀ x < 64, 0x80 ||| x = 0x80 + x := by decide

/-- `enc8` writes the table of R202 (R207). -/
theorem enc8_eq {cp : Nat} (h : cp ≤ 0x10FFFF) : enc8 cp = asBytes (utf8Form cp) := by
  have hlow (x : Nat) : 0x80 ||| x % 64 = 0x80 + x % 64 := or_continuation _ (Nat.mod_lt _ (by decide))
  simp only [enc8, utf8Form, utf8Size, and_sixtyThree, hlow, Nat.shiftRight_eq_div_pow, Nat.reducePow]
  split_ifs with h1 h2 h3
  · rfl
  · rw [or_lead_two _ (by omega)]
    rfl
  · rw [or_lead_three _ (by omega)]
    rfl
  · rw [or_lead_four _ (by omega)]
    rfl

theorem utf8Form_lt {cp : Nat} (h : cp ≤ 0x10FFFF) : ∀ x ∈ utf8Form cp, x < 256 := by
  simp only [utf8Form, utf8Size]
  split_ifs <;> simp [utf8Sized] <;> omega

/-! ### The forms of UTF-16 and UTF-32 -/

/-- `bytesOf` writes the two bytes of a unit (R221). -/
theorem bytesOf_two_eq (le : Bool) (u : Nat) : bytesOf 2 le u = asBytes (unit16Form le u) := by
  cases le <;>
    simp [bytesOf, bytesLE, List.range_succ, asBytes, unit16Form, Nat.shiftRight_eq_div_pow, ← BitVec.toNat_inj]

theorem bytesOf_four_eq (le : Bool) (u : Nat) : bytesOf 4 le u = asBytes (utf32Form le u) := by
  cases le <;>
    simp [bytesOf, bytesLE, List.range_succ, asBytes, utf32Form, Nat.shiftRight_eq_div_pow, ← BitVec.toNat_inj]

theorem enc16_eq (le : Bool) (cp : Nat) : enc16 le cp = asBytes (utf16Form le cp) := by
  have hlow (x : Nat) : x &&& 0x3FF = x % 1024 := Nat.and_two_pow_sub_one_eq_mod x 10
  simp only [enc16, utf16Form, bytesOf_two_eq, hlow, Nat.shiftRight_eq_div_pow, Nat.reducePow]
  split_ifs
  · rfl
  · exact (asBytes_append _ _).symm

theorem unit16Form_lt (le : Bool) {u : Nat} (h : u < 0x10000) : ∀ x ∈ unit16Form le u, x < 256 := by
  cases le <;> simp [unit16Form] <;> omega

theorem utf16Form_lt (le : Bool) {cp : Nat} (h : cp ≤ 0x10FFFF) : ∀ x ∈ utf16Form le cp, x < 256 := by
  rw [utf16Form]
  split_ifs with hone
  · exact unit16Form_lt le hone
  · exact List.forall_mem_append.2 ⟨unit16Form_lt le (by omega), unit16Form_lt le (by omega)⟩

theorem utf32Form_lt (le : Bool) {u : Nat} (h : u < 2 ^ 32) : ∀ x ∈ utf32Form le u, x < 256 := by
  cases le <;> simp [utf32Form] <;> omega

/-! ### The codepoints-to-bytes ops -/

/-- Each op writes its mark and then the form of every lane, as the tables of R202 and R221 have it. -/
theorem opOf_codepointToByteOps {le strict surr bom : Bool} {i : Instr} {form : Nat → List Nat}
    (h : (i, form) ∈ codepointToByteOps le strict surr bom) :
    ∃ put : Nat → List Byte, (∀ cp ≤ 0x10FFFF, (put cp).map BitVec.toNat = form cp) ∧
      ∀ arg0 arg1 input, opOf i arg0 arg1 input =
        encodedOutputs (if bom then put 0xFEFF else []) (encodeFrom put strict surr 0 input) := by
  simp only [codepointToByteOps, List.mem_cons, List.not_mem_nil, or_false, Prod.mk.injEq] at h
  obtain ⟨rfl, rfl⟩ | ⟨rfl, rfl⟩ | ⟨rfl, rfl⟩ := h
  · exact ⟨enc8, fun cp hcp => by rw [enc8_eq hcp, map_toNat_asBytes (utf8Form_lt hcp)], fun _ _ _ => rfl⟩
  · exact ⟨enc16 le, fun cp hcp => by rw [enc16_eq, map_toNat_asBytes (utf16Form_lt le hcp)], fun _ _ _ => rfl⟩
  · refine ⟨enc32 le, fun cp hcp => ?_, fun _ _ _ => rfl⟩
    rw [enc32, bytesOf_four_eq, map_toNat_asBytes (utf32Form_lt le (by omega))]

/-- The bytes that a codepoints-to-bytes command with the given input puts out (R206, R224, R226). -/
def encodedInput (form : Nat → List Nat) (surr bom : Bool) (input : List Lane) : List Nat :=
  (if bom then form 0xFEFF else []) ++ encodedText form (input.map fun v => writtenCodepoint surr v.toNat)

theorem opOf_of_raisesNothing {le strict surr bom : Bool} {i : Instr} {form : Nat → List Nat}
    (hi : (i, form) ∈ codepointToByteOps le strict surr bom) {input : List Lane}
    (h : ∀ v ∈ input, LaneRaisesNothing strict surr v) (arg0 arg1 : Lane) :
    ∃ bs : List Byte, bs.map BitVec.toNat = encodedInput form surr bom input ∧
      opOf i arg0 arg1 input = outputs (bs.map byteLane) := by
  obtain ⟨put, hput, hop⟩ := opOf_codepointToByteOps hi
  have hloop := encodeFrom_append (put := put) h 0 []
  rw [List.append_nil] at hloop
  refine ⟨(if bom then put 0xFEFF else []) ++ input.flatMap fun v => put (writtenCodepoint surr v.toNat), ?_, ?_⟩
  · have hform : ∀ v ∈ input, (put (writtenCodepoint surr v.toNat)).map BitVec.toNat =
        form (writtenCodepoint surr v.toNat) := by
      intro v hv
      refine hput _ ?_
      rw [writtenCodepoint]
      split
      · exact (h v hv).1
      · decide
    have hmark : (if bom then put 0xFEFF else []).map BitVec.toNat = if bom then form 0xFEFF else [] := by
      cases bom
      · rfl
      · exact hput _ (by decide)
    rw [List.map_append, hmark, List.map_flatMap, encodedInput, encodedText, List.flatMap_map, List.flatMap_def,
      List.flatMap_def, List.map_congr_left hform]
  · rw [hop, hloop]
    simp [encodeFrom, encodedOutputs]

/-- Settles O54: the output is the mark and the form of every lane (`opOf_of_raisesNothing`). -/
theorem codepointsToBytesResult : Obligations.CodepointsToBytesResult := by
  intro le strict surr bom i form s hi hinput hroom
  obtain ⟨bs, hbs, hop⟩ := opOf_of_raisesNothing hi hinput s.arg0 s.arg1
  rw [map_byteLane, hbs] at hop
  exact exec_of_outputs hop (by simpa [asLanes] using hroom)

/-- An error at lane `k` of a codepoints-to-bytes op, if no lane before it raises one (R201 (g)). -/
theorem exec_of_encodeFrom_error {le strict surr bom : Bool} {i : Instr} {form : Nat → List Nat}
    (hi : (i, form) ∈ codepointToByteOps le strict surr bom) {s : State} (hready : s.ready) {k : Nat} {code : ErrorCode}
    (hk : k < s.ilen.toNat) (hbefore : ∀ m < k, LaneRaisesNothing strict surr (s.ibuf.read m))
    (herr : ∀ put t, encodeFrom put strict surr k (s.ibuf.read k :: t) = .error ⟨code, k, (s.ibuf.read k).toNat⟩) :
    exec i s = .next (s.failed code.report (BitVec.ofNat 64 k) (s.ibuf.read k)) := by
  obtain ⟨put, -, hop⟩ := opOf_codepointToByteOps hi
  have hk' : k < s.input.length := by simpa using hk
  have hsplit : s.input = s.input.take k ++ s.ibuf.read k :: s.input.drop (k + 1) := by
    rw [← s.input_getElem k hk', List.cons_getElem_drop_succ, List.take_append_drop]
  have hpre : ∀ v ∈ s.input.take k, LaneRaisesNothing strict surr v := by
    intro v hv
    obtain ⟨m, hm, rfl⟩ := List.mem_take_iff_getElem.1 hv
    rw [State.input_getElem]
    exact hbefore m (by omega)
  have hloop : encodeFrom put strict surr 0 s.input = .error ⟨code, k, (s.ibuf.read k).toNat⟩ := by
    rw [hsplit, encodeFrom_append hpre, List.length_take, Nat.min_eq_left (Nat.le_of_lt hk'), Nat.zero_add, herr]
    rfl
  have herror : opOf i s.arg0 s.arg1 s.input = .error ⟨code, k, (s.ibuf.read k).toNat⟩ := by
    rw [hop, hloop]
    rfl
  rw [exec_eq, State.runOp_error hready herror, BitVec.ofNat_toNat, BitVec.setWidth_eq]

/-- Settles O55: each of the two offending lanes stops the loop (`exec_of_encodeFrom_error`). -/
theorem codepointsToBytesErrors : Obligations.CodepointsToBytesErrors := by
  intro le strict surr bom i form s k hi hready hk hbefore
  constructor
  · intro habove
    exact exec_of_encodeFrom_error (code := .range) hi hready hk hbefore fun _ => encodeFrom_cons_of_above habove k
  · rintro hlow hhigh rfl rfl
    exact exec_of_encodeFrom_error (code := .format) hi hready hk hbefore fun _ =>
      encodeFrom_cons_of_half ⟨hlow, hhigh⟩ k

end Sys2Proof.Machine
end

section
/-! PROOFS. The statements on UTF8_B2C (R203 to R205): a unit is a lead byte, the continuation bytes after it, and the value
that they carry. -/

namespace Sys2Proof.Machine

/-! ### Reading UTF-8 -/

/-- The mask asks for the two highest bits of the byte (R202). -/
theorem isContinuation_eq (b : Byte) : isContinuation b = isContinuationValue b.toNat := by
  have hmask : b &&& 0xC0#8 = b >>> 6 <<< 6 := by
    ext i hi
    interval_cases i <;> simp
  have htop : (b &&& 0xC0#8).toNat = b.toNat / 64 * 64 := by
    have := b.isLt
    rw [hmask, BitVec.toNat_shiftLeft, BitVec.toNat_ushiftRight, Nat.shiftRight_eq_div_pow, Nat.shiftLeft_eq]
    omega
  have hiff : b &&& 0xC0#8 = 0x80#8 ↔ 0x80 ≤ b.toNat ∧ b.toNat ≤ 0xBF := by
    rw [← BitVec.toNat_inj, htop, BitVec.toNat_ofNat]
    omega
  rw [Bool.eq_iff_iff]
  simpa [isContinuation, isContinuationValue] using hiff

theorem isContinuation_ofNat {c : Nat} (h : c < 256) : isContinuation (BitVec.ofNat 8 c) = isContinuationValue c := by
  rw [isContinuation_eq, BitVec.toNat_ofNat, Nat.mod_eq_of_lt h]

/-- A byte that stands in front of the continuation bytes of a sequence of `size` bytes, and the bits that it carries: the
rows of R202. -/
def IsLead (b size low : Nat) : Prop :=
  (0xC0 ≤ b ∧ b ≤ 0xDF ∧ size = 2 ∧ low = b - 0xC0) ∨ (0xE0 ≤ b ∧ b ≤ 0xEF ∧ size = 3 ∧ low = b - 0xE0) ∨
    (0xF0 ≤ b ∧ b ≤ 0xF7 ∧ size = 4 ∧ low = b - 0xF0)

section
variable {overlong surr : Bool} {b size low : Nat} {conts : List Nat} {rest : List Byte}

/-- The continuation bytes are taken in as far as the sequence goes or until another byte stops it (R203). -/
theorem takeContinuation_eq (hconts : conts.all isContinuationValue = true) {k : Nat} (hk : conts.length ≤ k)
    (hstop : conts.length = k ∨ rest.head?.any isContinuation = false) (acc : Nat) :
    takeContinuation k acc (asBytes conts ++ rest) = (conts.length, continuationValue acc conts) := by
  induction conts generalizing k acc with
  | nil =>
    cases k with
    | zero => rfl
    | succ k =>
      cases rest with
      | nil => rfl
      | cons b t =>
        have hb : isContinuation b = false := by simpa using hstop
        simp [asBytes, takeContinuation, hb, continuationValue]
  | cons c t ih =>
    obtain ⟨k, rfl⟩ := Nat.exists_eq_add_of_lt hk
    rw [List.all_cons, Bool.and_eq_true] at hconts
    obtain ⟨hc, ht⟩ := hconts
    have hlt : c < 256 := by
      simp only [isContinuationValue, Bool.and_eq_true, decide_eq_true_eq] at hc
      omega
    have hacc : acc <<< 6 ||| c % 64 = 64 * acc + c % 64 := by
      have hlow : c % 64 < 2 ^ 6 := Nat.mod_lt c (by decide)
      rw [shiftLeft_or_eq_mul_add acc hlow]
      omega
    have hnext := ih ht (k := t.length + k) (by omega) (by simpa [Nat.add_right_comm] using hstop) (64 * acc + c % 64)
    simp only [asBytes] at hnext
    simp [asBytes, takeContinuation, isContinuation_ofNat hlt, hc, Nat.mod_eq_of_lt hlt, and_sixtyThree, hacc,
      hnext, continuationValue]

/-- A sequence that is not complete (R205). -/
theorem utf8Sequence_of_short (hconts : conts.all isContinuationValue = true) (hshort : conts.length + 1 < size)
    (hstop : rest.head?.any isContinuation = false) :
    utf8Sequence overlong surr size low (asBytes conts ++ rest) = ⟨conts.length + 1, none⟩ := by
  simp [utf8Sequence, takeContinuation_eq hconts (by omega : conts.length ≤ size - 1) (.inr hstop), hshort]

/-- A complete sequence is taken or rejected by the value that it carries (R203, R205). -/
theorem utf8Sequence_of_complete (hconts : conts.all isContinuationValue = true) (hfull : conts.length + 1 = size) :
    utf8Sequence overlong surr size low (asBytes conts ++ rest) = ⟨conts.length + 1,
      if isCarried surr (continuationValue low conts) = true ∧
        (continuationValue low conts < utf8Min size → overlong = true)
      then some (continuationValue low conts) else none⟩ := by
  subst hfull
  simp only [utf8Sequence, Nat.add_sub_cancel, takeContinuation_eq hconts (Nat.le_refl _) (.inl rfl), isCarried_eq]
  grind

theorem utf8Unit_of_lead (h : IsLead b size low) :
    utf8Unit overlong surr (BitVec.ofNat 8 b) rest = utf8Sequence overlong surr size low rest := by
  have htwo : b &&& 31 = b % 32 := Nat.and_two_pow_sub_one_eq_mod b 5
  have hfour : b &&& 7 = b % 8 := Nat.and_two_pow_sub_one_eq_mod b 3
  have hlt : b < 256 := by
    unfold IsLead at h
    omega
  simp only [utf8Unit, BitVec.toNat_ofNat, Nat.reducePow, Nat.mod_eq_of_lt hlt, htwo, and_fifteen, hfour]
  rcases h with ⟨h1, h2, hsize, hlow⟩ | ⟨h1, h2, hsize, hlow⟩ | ⟨h1, h2, hsize, hlow⟩ <;> rw [hsize, hlow]
  · rw [if_neg (by omega), if_pos (by omega), (by omega : b % 32 = b - 0xC0)]
  · rw [if_neg (by omega), if_neg (by omega), if_pos (by omega), (by omega : b % 16 = b - 0xE0)]
  · rw [if_neg (by omega), if_neg (by omega), if_neg (by omega), if_pos (by omega),
      (by omega : b % 8 = b - 0xF0)]

/-- A stray continuation byte, or a byte that is never valid (R205). -/
theorem utf8Unit_of_invalid (h : 0x80 ≤ b ∧ b ≤ 0xBF ∨ 0xF8 ≤ b ∧ b ≤ 0xFF) :
    utf8Unit overlong surr (BitVec.ofNat 8 b) rest = ⟨1, none⟩ := by
  simp only [utf8Unit, BitVec.toNat_ofNat, Nat.reducePow, Nat.mod_eq_of_lt (by omega : b < 256)]
  rw [if_neg (by omega), if_neg (by omega), if_neg (by omega), if_neg (by omega)]

theorem utf8Unit_of_ascii (h : b < 0x80) : utf8Unit overlong surr (BitVec.ofNat 8 b) rest = ⟨1, some b⟩ := by
  simp only [utf8Unit, BitVec.toNat_ofNat, Nat.reducePow, Nat.mod_eq_of_lt (by omega : b < 256)]
  rw [if_pos (by omega)]

theorem readsUnit_of_lead {value : Option Nat} (hlead : IsLead b size low)
    (hseq : utf8Sequence overlong surr size low (asBytes conts ++ rest) = ⟨conts.length + 1, value⟩) :
    ReadsUnit (utf8Unit overlong surr) value (asBytes (b :: conts)) rest :=
  ⟨BitVec.ofNat 8 b, asBytes conts, rfl, by rw [utf8Unit_of_lead hlead, hseq, asBytes_length]⟩

theorem isContinuationValue_low (x : Nat) : isContinuationValue (0x80 + x % 64) = true := by
  simp only [isContinuationValue, Bool.and_eq_true, decide_eq_true_eq]
  omega

/-- A sequence of R202 of more than one byte is a lead byte and its continuation bytes, which carry the codepoint. -/
theorem utf8Sized_eq_cons {cp : Nat} (hmax : cp ≤ 0x10FFFF) (hsize : utf8Size cp ≤ size) (htwo : 2 ≤ size)
    (hfour : size ≤ 4) :
    ∃ b low conts, utf8Sized size cp = b :: conts ∧ IsLead b size low ∧ conts.all isContinuationValue = true ∧
      conts.length + 1 = size ∧ continuationValue low conts = cp := by
  have hbound : (size = 2 → cp < 0x800) ∧ (size = 3 → cp < 0x10000) := by
    rw [utf8Size] at hsize
    split_ifs at hsize <;> omega
  obtain ⟨htwo', hthree'⟩ := hbound
  obtain rfl | rfl | rfl : size = 2 ∨ size = 3 ∨ size = 4 := by omega
  · refine ⟨0xC0 + cp / 64, cp / 64, [0x80 + cp % 64], rfl, .inl (by omega), ?_, rfl, ?_⟩
    · simp [isContinuationValue_low]
    · simp only [continuationValue, List.foldl_cons, List.foldl_nil]
      omega
  · refine ⟨0xE0 + cp / 4096, cp / 4096, [0x80 + cp / 64 % 64, 0x80 + cp % 64], rfl, .inr (.inl (by omega)), ?_, rfl, ?_⟩
    · simp [isContinuationValue_low]
    · simp only [continuationValue, List.foldl_cons, List.foldl_nil]
      omega
  · refine ⟨0xF0 + cp / 262144, cp / 262144, [0x80 + cp / 4096 % 64, 0x80 + cp / 64 % 64, 0x80 + cp % 64], rfl,
      .inr (.inr (by omega)), ?_, rfl, ?_⟩
    · simp [isContinuationValue_low]
    · simp only [continuationValue, List.foldl_cons, List.foldl_nil]
      omega

/-- A sequence of R202, whatever follows it; an overlong one too if ALLOW_OVERLONG = 1 (R209). -/
theorem readsUnit_utf8Sized {cp : Nat} (hcarried : isCarried surr cp = true) (hsize : utf8Size cp ≤ size)
    (hfour : size ≤ 4) (hminimal : overlong = false → size = utf8Size cp) :
    ReadsUnit (utf8Unit overlong surr) (some cp) (asBytes (utf8Sized size cp)) rest := by
  rcases Nat.lt_or_ge size 2 with hone | htwo
  · have hsmall : size = 1 ∧ cp < 0x80 := by
      rw [utf8Size] at hsize
      split_ifs at hsize <;> omega
    obtain ⟨rfl, hcp⟩ := hsmall
    exact ⟨BitVec.ofNat 8 cp, [], rfl, utf8Unit_of_ascii hcp⟩
  · obtain ⟨b, low, conts, hsized, hlead, hconts, hfull, hvalue⟩ :=
      utf8Sized_eq_cons (le_of_isCarried hcarried) hsize htwo hfour
    have hmin : cp < utf8Min size → overlong = true := by
      intro hlt
      by_contra hno
      have heq := hminimal (by simpa using hno)
      rw [heq, utf8Min, utf8Size] at hlt
      split_ifs at hlt <;> simp_all [utf8Size]
    rw [hsized]
    refine readsUnit_of_lead hlead ?_
    rw [utf8Sequence_of_complete hconts hfull, hvalue, if_pos ⟨hcarried, hmin⟩]

/-- Well-formed UTF-8 is read as its codepoints, whatever follows it (R202, R203, R209). -/
theorem Utf8Text.readsText {cps text : List Nat} (h : Utf8Text overlong surr cps text) (rest : List Byte) :
    ReadsText (utf8Unit overlong surr) rest cps (asBytes text) := by
  obtain ⟨sizes, hlen, hcarried, hsizes, rfl⟩ := h
  have hsnd : (sizes.zip cps).map Prod.snd = cps := List.map_snd_zip hlen.ge
  rw [← hsnd] at hcarried
  have hread : ∀ qs : List (Nat × Nat), (qs.map Prod.snd).all (isCarried surr) = true →
      (∀ q ∈ qs, utf8Size q.2 ≤ q.1 ∧ q.1 ≤ 4 ∧ (overlong = false → q.1 = utf8Size q.2)) →
      ReadsText (utf8Unit overlong surr) rest (qs.map Prod.snd) (asBytes (qs.flatMap fun q => utf8Sized q.1 q.2)) := by
    intro qs
    induction qs with
    | nil => exact fun _ _ => .nil
    | cons q t ih =>
      intro hall hq
      rw [List.map_cons, List.all_cons, Bool.and_eq_true] at hall
      obtain ⟨⟨hsize, hfour, hminimal⟩, ht⟩ := List.forall_mem_cons.1 hq
      rw [List.flatMap_cons, asBytes_append]
      exact .cons (readsUnit_utf8Sized hall.1 hsize hfour hminimal) (ih hall.2 ht)
  have := hread _ hcarried hsizes
  rwa [hsnd] at this

/-- The six rows of R205. -/
theorem MalformedUtf8.readsUnit {unit rest : List Nat} (h : MalformedUtf8 overlong surr unit rest)
    (hlt : ∀ x ∈ unit ++ rest, x < 256) : ReadsUnit (utf8Unit overlong surr) none (asBytes unit) (asBytes rest) := by
  cases h with
  | stray b _ h => exact ⟨BitVec.ofNat 8 b, [], rfl, utf8Unit_of_invalid (.inl h)⟩
  | invalid b _ h => exact ⟨BitVec.ofNat 8 b, [], rfl, utf8Unit_of_invalid (.inr h)⟩
  | truncated b size conts _ lead tail short stop =>
    have hstop : (asBytes rest).head?.any isContinuation = false := by
      cases rest with
      | nil => rfl
      | cons c t => simpa [asBytes, isContinuation_ofNat (hlt c (by simp))] using stop
    obtain ⟨low, hlead⟩ : ∃ low, IsLead b size low := by
      unfold IsLead
      rcases lead with ⟨h1, h2, rfl⟩ | ⟨h1, h2, rfl⟩ | ⟨h1, h2, rfl⟩
      · exact ⟨_, .inl ⟨h1, h2, rfl, rfl⟩⟩
      · exact ⟨_, .inr (.inl ⟨h1, h2, rfl, rfl⟩)⟩
      · exact ⟨_, .inr (.inr ⟨h1, h2, rfl, rfl⟩)⟩
    exact readsUnit_of_lead hlead (utf8Sequence_of_short tail short hstop)
  | rejected b size low least conts _ lead tail full bad =>
    have hlead : IsLead b size low ∧ least = utf8Min size := by
      unfold IsLead utf8Min
      split_ifs <;> omega
    obtain ⟨hlead, rfl⟩ := hlead
    refine readsUnit_of_lead hlead ?_
    rw [utf8Sequence_of_complete tail full, if_neg ?_]
    rintro ⟨hcarried, hmin⟩
    rcases bad with ⟨hsmall, hoff⟩ | ⟨h1, h2, hoff⟩ | habove
    · rw [hmin hsmall] at hoff
      cases hoff
    · simp [isCarried_eq, isSurrogate, h1, h2, hoff] at hcarried
    · exact absurd (le_of_isCarried hcarried) (Nat.not_le.2 habove)

/-- Only codepoints that may be carried come out of UTF-8 (R203). -/
theorem utf8Unit_value {b : Byte} {t : List Byte} {cp : Nat} (h : (utf8Unit overlong surr b t).value = some cp) :
    isCarried surr cp = true := by
  have hseq (size low : Nat) (h : (utf8Sequence overlong surr size low t).value = some cp) : isCarried surr cp = true := by
    simp only [utf8Sequence] at h
    split_ifs at h with hshort hbad
    cases h
    rw [isCarried_eq]
    grind
  rw [utf8Unit] at h
  split_ifs at h with hone
  · cases h
    exact isCarried_of_not_half surr (by omega) (by omega)
  all_goals exact hseq _ _ h

end

/-- UTF8_B2C takes off a complete mark and decodes what follows (R203, R204). -/
theorem utf8B2c_decodesUnits (overlong surr : Bool) : DecodesUnits (fun _ strict bom => .utf8B2c strict overlong surr bom)
    (fun _ => utf8Form) (fun _ => utf8Unit overlong surr) := by
  intro le flag strict bom s mark body hmark hbytes
  have hlt := s.byteValues_lt
  have htake := take_asBytes_eq_iff (utf8Form_lt (by decide : 0xFEFF ≤ 0x10FFFF)) hlt
  have hskip : utf8Skip bom (asBytes s.byteValues) = mark.length := by
    have hlen : (utf8Form 0xFEFF).length = 3 := by decide
    have hutf8Mark : asBytes (utf8Form 0xFEFF) = utf8Mark := by decide
    rw [hlen, hutf8Mark] at htake
    obtain ⟨rfl, rfl⟩ | ⟨rfl, -, hno⟩ := hmark
    · have htaken := htake.2 (hbytes ▸ List.prefix_append _ _)
      simp [utf8Skip, htaken, hlen]
    · cases bom with
      | false => rfl
      | true =>
        have hnot : ¬ (asBytes s.byteValues).take 3 = utf8Mark := fun h => hno rfl true (by simpa [hbytes] using htake.1 h)
        simp [utf8Skip, hnot]
  change codepointOutputs (utf8Decode strict overlong surr bom (byteInput s.input)) = _
  rw [State.byteInput_input_eq_asBytes, utf8Decode, hskip, hbytes, decodeFrom_after_mark]

/-- Settles O48: the mark is taken off, and the text is read sequence by sequence (`Utf8Text.readsText`). -/
theorem utf8B2cOnWellFormedText : Obligations.Utf8B2cOnWellFormedText := fun overlong surr =>
  (utf8B2c_decodesUnits overlong surr).wellFormedTextRule fun _ _ _ h => h.readsText []

/-- Settles O52: after the text, each row of R205 is one malformed unit (`MalformedUtf8.readsUnit`). -/
theorem malformedUtf8Units : Obligations.MalformedUtf8Units := fun overlong surr =>
  (utf8B2c_decodesUnits overlong surr).malformedUnitRule (fun _ _ _ _ _ h _ _ => h.readsText _)
    fun _ _ _ h hlt => h.readsUnit hlt

end Sys2Proof.Machine
end

section
/-! PROOFS. Reading UTF-16 and UTF-32 (R222, R223, R225): a unit is two or four bytes in the byte order that the mark or LE
decides, and a high surrogate half is joined with a low one that follows it. -/

namespace Sys2Proof.Machine

/-! ### Reading UTF-16 -/

section
variable {le surr : Bool}

/-- Bytes that begin with the unit of a low surrogate half (R223). -/
def StartsWithLow (le : Bool) (bs : List Byte) : Prop :=
  ∃ b0 b1 t, bs = b0 :: b1 :: t ∧ 0xDC00 ≤ unit16 le b0 b1 ∧ unit16 le b0 b1 ≤ 0xDFFF

theorem unit16_lt (le : Bool) (b0 b1 : Byte) : unit16 le b0 b1 < 0x10000 := by
  simpa [unit16] using assemble_lt le [b0, b1]

/-- The two bytes of a unit, and the unit that they make up (R221). -/
theorem exists_unit16Form (le : Bool) {u : Nat} (h : u < 0x10000) :
    ∃ b0 b1, asBytes (unit16Form le u) = [b0, b1] ∧ unit16 le b0 b1 = u := by
  rw [← bytesOf_two_eq]
  obtain ⟨b0, b1, hbytes⟩ := List.length_eq_two.1 (bytesOf_length 2 le u)
  refine ⟨b0, b1, hbytes, ?_⟩
  rw [unit16, ← hbytes, assemble_bytesOf]
  exact Nat.mod_eq_of_lt h

/-- The unit that bytes begin with is told by them. -/
theorem startsWithLow_unit16Form {u : Nat} (h : u < 0x10000) (t : List Byte) :
    StartsWithLow le (asBytes (unit16Form le u) ++ t) ↔ 0xDC00 ≤ u ∧ u ≤ 0xDFFF := by
  obtain ⟨b0, b1, hbytes, hunit⟩ := exists_unit16Form le h
  rw [hbytes]
  constructor
  · rintro ⟨_, _, _, heq, hlow⟩
    cases heq
    rwa [hunit] at hlow
  · exact fun hlow => ⟨b0, b1, t, rfl, by rwa [hunit]⟩

section
variable {b0 b1 : Byte} {t : List Byte}

theorem utf16Unit_of_not_half (h : ¬(0xD800 ≤ unit16 le b0 b1 ∧ unit16 le b0 b1 ≤ 0xDFFF)) :
    utf16Unit le surr b0 (b1 :: t) = ⟨2, some (unit16 le b0 b1)⟩ := by
  simp only [utf16Unit]
  rw [if_neg (by omega), if_neg (by omega)]

theorem utf16Unit_of_low (h : 0xDC00 ≤ unit16 le b0 b1 ∧ unit16 le b0 b1 ≤ 0xDFFF) :
    utf16Unit le surr b0 (b1 :: t) = unpaired surr (unit16 le b0 b1) := by
  simp only [utf16Unit]
  rw [if_neg (by omega), if_pos h]

theorem utf16Unit_of_high_alone (h : 0xD800 ≤ unit16 le b0 b1 ∧ unit16 le b0 b1 ≤ 0xDBFF) (halone : ¬StartsWithLow le t) :
    utf16Unit le surr b0 (b1 :: t) = unpaired surr (unit16 le b0 b1) := by
  simp only [utf16Unit]
  rw [if_pos h]
  split
  · next b2 b3 t' => exact if_neg fun hlow => halone ⟨b2, b3, t', rfl, hlow⟩
  · rfl

theorem utf16Unit_of_pair {b2 b3 : Byte} (h : 0xD800 ≤ unit16 le b0 b1 ∧ unit16 le b0 b1 ≤ 0xDBFF)
    (hlow : 0xDC00 ≤ unit16 le b2 b3 ∧ unit16 le b2 b3 ≤ 0xDFFF) :
    utf16Unit le surr b0 (b1 :: b2 :: b3 :: t) =
      ⟨4, some (0x10000 + (unit16 le b0 b1 - 0xD800) * 1024 + (unit16 le b2 b3 - 0xDC00))⟩ := by
  simp only [utf16Unit]
  rw [if_pos h, if_pos hlow, Nat.shiftLeft_eq]

end

/-- The form of R221, a high surrogate half only where no low one follows (R223). -/
theorem readsUnit_utf16Form {cp : Nat} (hcarried : isCarried surr cp = true) {rest : List Byte}
    (hapart : 0xD800 ≤ cp → cp ≤ 0xDBFF → ¬StartsWithLow le rest) :
    ReadsUnit (utf16Unit le surr) (some cp) (asBytes (utf16Form le cp)) rest := by
  have hmax := le_of_isCarried hcarried
  have hhalf : 0xD800 ≤ cp ∧ cp ≤ 0xDFFF → unpaired surr cp = ⟨2, some cp⟩ := by
    rintro ⟨hlow, hhigh⟩
    rw [surr_of_isCarried_half hcarried hlow hhigh]
    rfl
  rw [utf16Form]
  split
  · next hone =>
    obtain ⟨b0, b1, hbytes, rfl⟩ := exists_unit16Form le hone
    refine ⟨b0, [b1], hbytes, ?_⟩
    change utf16Unit le surr b0 (b1 :: rest) = ⟨2, some (unit16 le b0 b1)⟩
    by_cases hscalar : 0xD800 ≤ unit16 le b0 b1 ∧ unit16 le b0 b1 ≤ 0xDFFF
    · rw [← hhalf hscalar]
      rcases Nat.lt_or_ge 0xDBFF (unit16 le b0 b1) with hlow | hhigh
      · exact utf16Unit_of_low ⟨hlow, hscalar.2⟩
      · exact utf16Unit_of_high_alone ⟨hscalar.1, hhigh⟩ (hapart hscalar.1 hhigh)
    · exact utf16Unit_of_not_half hscalar
  · next hpair =>
    obtain ⟨b0, b1, hhigh, hu⟩ := exists_unit16Form le (by omega : 0xD800 + (cp - 0x10000) / 1024 < 0x10000)
    obtain ⟨b2, b3, hlow, hv⟩ := exists_unit16Form le (by omega : 0xDC00 + (cp - 0x10000) % 1024 < 0x10000)
    refine ⟨b0, [b1, b2, b3], by rw [asBytes_append, hhigh, hlow]; rfl, ?_⟩
    change utf16Unit le surr b0 (b1 :: b2 :: b3 :: rest) = ⟨4, some cp⟩
    have hvalue : 0x10000 + (unit16 le b0 b1 - 0xD800) * 1024 + (unit16 le b2 b3 - 0xDC00) = cp := by omega
    rw [utf16Unit_of_pair (by omega) (by omega), hvalue]

/-- A text begins with a low surrogate half only if its first codepoint is one. -/
theorem startsWithLow_utf16Form {cp : Nat} (h : cp ≤ 0x10FFFF) (t : List Byte) :
    StartsWithLow le (asBytes (utf16Form le cp) ++ t) ↔ 0xDC00 ≤ cp ∧ cp ≤ 0xDFFF := by
  rw [utf16Form]
  split
  · next hone => exact startsWithLow_unit16Form hone t
  · next hpair =>
    rw [asBytes_append, List.append_assoc, startsWithLow_unit16Form (by omega)]
    omega

/-- Well-formed UTF-16 is read as its codepoints, unless its last one may be joined with what follows (R223). -/
theorem Utf16Text.readsText {cps text : List Nat} (h : Utf16Text surr le cps text) {rest : List Byte}
    (hrest : surr = true → ¬StartsWithLow le rest) : ReadsText (utf16Unit le surr) rest cps (asBytes text) := by
  obtain ⟨hcarried, hapart, rfl⟩ := h
  induction cps with
  | nil => exact .nil
  | cons cp t ih =>
    rw [List.all_cons, Bool.and_eq_true] at hcarried
    obtain ⟨hcp, ht⟩ := hcarried
    have hapart' : halvesApart t = true := by
      cases t with
      | nil => rfl
      | cons v t =>
        rw [halvesApart, Bool.and_eq_true] at hapart
        exact hapart.2
    rw [encodedText, List.flatMap_cons, asBytes_append]
    refine .cons (readsUnit_utf16Form hcp fun hlow hhigh => ?_) (ih ht hapart')
    cases t with
    | nil => exact hrest (surr_of_isCarried_half hcp hlow (Nat.le_trans hhigh (by decide)))
    | cons v t =>
      rw [List.all_cons, Bool.and_eq_true] at ht
      rw [List.flatMap_cons, asBytes_append, List.append_assoc, startsWithLow_utf16Form (le_of_isCarried ht.1)]
      simp only [halvesApart, Bool.and_eq_true, Bool.not_eq_true', Bool.and_eq_false_iff, decide_eq_false_iff_not] at hapart
      grind

/-- Only codepoints that may be carried come out of UTF-16 (R223). -/
theorem utf16Unit_value {b : Byte} {t : List Byte} {cp : Nat} (h : (utf16Unit le surr b t).value = some cp) :
    isCarried surr cp = true := by
  cases t with
  | nil => cases h
  | cons b1 t =>
    have hu := unit16_lt le b b1
    by_cases hhalf : 0xD800 ≤ unit16 le b b1 ∧ unit16 le b b1 ≤ 0xDFFF
    · have hunpaired (h : (unpaired surr (unit16 le b b1)).value = some cp) : isCarried surr cp = true := by
        cases surr <;> cases h
        simp [isCarried, hhalf]
      by_cases hlow : 0xDC00 ≤ unit16 le b b1
      · rw [utf16Unit_of_low ⟨hlow, hhalf.2⟩] at h
        exact hunpaired h
      · by_cases hpair : StartsWithLow le t
        · obtain ⟨b2, b3, t', rfl, hv⟩ := hpair
          rw [utf16Unit_of_pair (by omega) hv] at h
          obtain rfl := Option.some.inj h
          exact isCarried_of_not_half surr (by omega) (by omega)
        · rw [utf16Unit_of_high_alone (by omega) hpair] at h
          exact hunpaired h
    · rw [utf16Unit_of_not_half hhalf] at h
      cases h
      exact isCarried_of_not_half surr (by omega) hhalf

/-! ### Reading UTF-32 -/

theorem utf32Unit_of_four (b0 b1 b2 b3 : Byte) (t : List Byte) :
    utf32Unit le surr b0 (b1 :: b2 :: b3 :: t) =
      ⟨4, if isCarried surr (assemble le [b0, b1, b2, b3]) then some (assemble le [b0, b1, b2, b3]) else none⟩ := by
  simp only [utf32Unit, isCarried_eq]
  grind

/-- Well-formed UTF-32 is read as its codepoints, whatever follows it (R225). -/
theorem Utf32Text.readsText {cps text : List Nat} (h : Utf32Text surr le cps text) (rest : List Byte) :
    ReadsText (utf32Unit le surr) rest cps (asBytes text) := by
  obtain ⟨hcarried, rfl⟩ := h
  induction cps with
  | nil => exact .nil
  | cons cp t ih =>
    rw [List.all_cons, Bool.and_eq_true] at hcarried
    obtain ⟨hcp, ht⟩ := hcarried
    rw [encodedText, List.flatMap_cons, asBytes_append]
    refine .cons ?_ (ih ht)
    rw [← bytesOf_four_eq]
    obtain ⟨b0, b1, b2, b3, hbytes⟩ : ∃ b0 b1 b2 b3, bytesOf 4 le cp = [b0, b1, b2, b3] := by
      cases le <;> exact ⟨_, _, _, _, rfl⟩
    have hvalue : assemble le [b0, b1, b2, b3] = cp := by
      have := le_of_isCarried hcp
      rw [← hbytes, assemble_bytesOf, Nat.mod_eq_of_lt (by omega)]
    refine ⟨b0, [b1, b2, b3], hbytes, ?_⟩
    simp only [List.cons_append, List.nil_append]
    rw [utf32Unit_of_four, hvalue, hcp]
    rfl

/-- Only codepoints that may be carried come out of UTF-32 (R225). -/
theorem utf32Unit_value {b : Byte} {t : List Byte} {cp : Nat} (h : (utf32Unit le surr b t).value = some cp) :
    isCarried surr cp = true := by
  match t with
  | b1 :: b2 :: b3 :: t =>
    rw [utf32Unit_of_four] at h
    split at h
    · next hcarried =>
      cases h
      exact hcarried
    · cases h
  | [] | [_] | [_, _] => cases h

end

/-! ### The byte-order marks of UTF-16 and UTF-32 -/

/-- An op that takes off a mark of `w` bytes and decodes what follows in the mark's byte order, or else in LE's (R222). -/
theorem decodesUnits_of_takeMark {op : Bool → Bool → Bool → Instr} {form : Bool → Nat → List Nat}
    {unitAt : Bool → Byte → List Byte → CodeUnit} {w : Nat} (hmarkOf : ∀ le, markOf w le = asBytes (form le 0xFEFF))
    (hform : ∀ le, ∀ x ∈ form le 0xFEFF, x < 256) (horders : markOf w true ≠ markOf w false)
    (hop : ∀ flag strict bom arg0 arg1 input, opOf (op flag strict bom) arg0 arg1 input = codepointOutputs
      (decodeFrom (unitAt (takeMark w bom flag (byteInput input)).2) strict 0 (takeMark w bom flag (byteInput input)).1
        (byteInput input))) :
    DecodesUnits op form unitAt := by
  intro le flag strict bom s mark body hmark hbytes
  have hlen (order : Bool) : (form order 0xFEFF).length = w := by
    rw [← asBytes_length, ← hmarkOf, markOf, bytesOf_length]
  have htake (order : Bool) : (asBytes s.byteValues).take w = markOf w order ↔ form order 0xFEFF <+: s.byteValues := by
    rw [hmarkOf, ← take_asBytes_eq_iff (hform order) s.byteValues_lt, hlen]
  have htaken : takeMark w bom flag (asBytes s.byteValues) = (mark.length, le) := by
    obtain ⟨rfl, rfl⟩ | ⟨rfl, rfl, hno⟩ := hmark
    · have hfirst := (htake le).2 (hbytes ▸ List.prefix_append _ _)
      cases le <;> simp [takeMark, hfirst, hlen, horders]
    · cases bom with
      | false => rfl
      | true =>
        have hnot (order : Bool) : (asBytes s.byteValues).take w ≠ markOf w order := fun h =>
          hno rfl order (by simpa [hbytes] using (htake order).1 h)
        simp [takeMark, hnot]
  rw [hop, State.byteInput_input_eq_asBytes, htaken, hbytes, decodeFrom_after_mark]

theorem utf16B2c_decodesUnits (surr : Bool) : DecodesUnits (fun le strict bom => .utf16B2c le strict surr bom) utf16Form
    (fun le => utf16Unit le surr) :=
  decodesUnits_of_takeMark (w := 2) (fun le => bytesOf_two_eq le 0xFEFF)
    (fun le => utf16Form_lt le (by decide)) (by decide) fun _ _ _ _ _ _ => rfl

theorem utf32B2c_decodesUnits (surr : Bool) : DecodesUnits (fun le strict bom => .utf32B2c le strict surr bom) utf32Form
    (fun le => utf32Unit le surr) :=
  decodesUnits_of_takeMark (w := 4) (fun le => bytesOf_four_eq le 0xFEFF)
    (fun le => utf32Form_lt le (by decide)) (by decide) fun _ _ _ _ _ _ => rfl

/-- R223 and R222 on well-formed UTF-16. -/
theorem utf16B2c_wellFormedTextRule (surr : Bool) :
    WellFormedTextRule (fun le strict bom => .utf16B2c le strict surr bom) utf16Form (Utf16Text surr) :=
  (utf16B2c_decodesUnits surr).wellFormedTextRule fun _ _ _ h => h.readsText fun _ hlow => by
    obtain ⟨_, _, _, hnil, -⟩ := hlow
    cases hnil

/-- R225 and R222 on well-formed UTF-32. -/
theorem utf32B2c_wellFormedTextRule (surr : Bool) :
    WellFormedTextRule (fun le strict bom => .utf32B2c le strict surr bom) utf32Form (Utf32Text surr) :=
  (utf32B2c_decodesUnits surr).wellFormedTextRule fun _ _ _ h => h.readsText []

end Sys2Proof.Machine
end

section
/-! PROOFS. The statements on all three bytes-to-codepoints ops: lenient decoding (R201 (b) and (c)) and the round trips
(R208, R228). -/

namespace Sys2Proof.Machine

/-! ### Lenient decoding -/

/-- What a lenient bytes-to-codepoints op makes of any input (R201 (b) and (c)). -/
theorem opOf_lenientDecodeOps {le overlong surr bom : Bool} {i : Instr} (h : i ∈ lenientDecodeOps le overlong surr bom)
    (arg0 arg1 : Lane) (input : List Lane) :
    ∃ cps, opOf i arg0 arg1 input = outputs (asLanes cps) ∧ cps.length ≤ input.length ∧ cps.all (isCarried surr) = true := by
  obtain ⟨unitAt, k, hvalue, hop⟩ : ∃ (unitAt : Byte → List Byte → CodeUnit) (k : Nat),
      (∀ b t cp, (unitAt b t).value = some cp → isCarried surr cp = true) ∧
      opOf i arg0 arg1 input = codepointOutputs (decodeFrom unitAt false 0 k (byteInput input)) := by
    simp only [lenientDecodeOps, List.mem_cons, List.not_mem_nil, or_false] at h
    obtain rfl | rfl | rfl := h
    · exact ⟨utf8Unit overlong surr, _, fun _ _ _ => utf8Unit_value, rfl⟩
    · exact ⟨utf16Unit _ surr, _, fun _ _ _ => utf16Unit_value, rfl⟩
    · exact ⟨utf32Unit _ surr, _, fun _ _ _ => utf32Unit_value, rfl⟩
  obtain ⟨cps, hcps, hlen, hall⟩ := decodeFrom_lenient_total hvalue 0 k (byteInput input)
  rw [byteInput_length] at hlen
  exact ⟨cps, by rw [hop, hcps, codepointOutputs_ok], hlen, hall⟩

/-- Settles O51: the lenient loop gives at most one codepoint for each byte (`decodeFrom_lenient_total`), and only the
output's length decides how the command ends. -/
theorem lenientDecodersAreTotal : Obligations.LenientDecodersAreTotal := by
  intro le overlong surr bom i s hi hready
  obtain ⟨cps, hop, hlen, hall⟩ := opOf_lenientDecodeOps hi s.arg0 s.arg1 s.input
  rw [State.input_length] at hlen
  have hout : (asLanes cps).length = cps.length := by simp [asLanes]
  refine ⟨cps, hlen, hall, ?_⟩
  split
  · next hfit => exact exec_of_outputs hop ⟨hready, by rwa [hout]⟩
  · next hlong => rw [exec_eq, State.runOp_outputTooLong hready hop (by rw [hout]; omega)]

/-! ### The round trips -/

/-- A command that has completed had room for its output (R303, R306). -/
theorem roomFor_of_completed {i : Instr} {s t : State} {out : List Lane}
    (hop : opOf i s.arg0 s.arg1 s.input = outputs out) (ht : exec i s = .next t) (hdone : t.status = 0x01) :
    s.roomFor out.length := by
  obtain rfl := exec_next ht
  rw [State.runOp_eq, hop] at hdone
  split at hdone
  · simp at hdone
  · next hready =>
    refine ⟨Nat.not_lt.1 hready, ?_⟩
    by_contra hlong
    simp [outputs, Nat.lt_of_not_le hlong] at hdone

/-- A bytes-to-codepoints op that reads well-formed text undoes a codepoints-to-bytes op that writes it (R208, R228). -/
theorem exec_transcoded {le other strict strict' surr bom : Bool} {i : Instr} {op : Bool → Bool → Bool → Instr}
    {form : Bool → Nat → List Nat} {text : Bool → List Nat → List Nat → Prop} {s t u : State}
    (hi : (i, form le) ∈ codepointToByteOps le strict surr bom) (hrule : WellFormedTextRule op form text)
    (htext : text le (s.input.map BitVec.toNat) (encodedText (form le) (s.input.map BitVec.toNat)))
    (hcarried : ∀ v ∈ s.input, isCarried surr v.toNat = true) (horder : bom = false → other = le)
    (ht : exec i s = .next t) (hdone : t.status = 0x01) (hfeed : FeedsInto t u) (hroom : u.roomFor s.ilen.toNat) :
    exec (op other strict' bom) u = .next (u.completed s.input 0 0 0 0 0) := by
  obtain ⟨bs, hbs, hop⟩ := opOf_of_raisesNothing hi
    (fun v hv => ⟨le_of_isCarried (hcarried v hv), fun _ => hcarried v hv⟩) s.arg0 s.arg1
  have hbytes : u.byteValues = encodedInput (form le) surr bom s.input := by
    have hin := input_of_feedsInto hop (roomFor_of_completed hop ht hdone) ht hfeed
    rw [State.byteValues_eq, hin, byteInput_map_byteLane, hbs]
  have hwritten : (s.input.map fun v => writtenCodepoint surr v.toNat) = s.input.map BitVec.toNat :=
    List.map_congr_left fun v hv => writtenCodepoint_of_isCarried (hcarried v hv)
  rw [encodedInput, hwritten] at hbytes
  have hmark : MarkRead form le other bom (if bom then form le 0xFEFF else [])
      (encodedText (form le) (s.input.map BitVec.toNat)) := by
    cases bom with
    | true => exact .inl ⟨rfl, rfl⟩
    | false => exact .inr ⟨rfl, horder rfl, by simp⟩
  have hback := hrule le other strict' bom u _ _ _ (by simpa using hroom) htext hmark hbytes
  simpa [Function.comp_def] using hback

/-- Settles O56: each op's output is well-formed text behind its own mark, and the other op reads it (`exec_transcoded`). -/
theorem transcodersRoundTrip : Obligations.TranscodersRoundTrip := by
  intro le other strict strict' overlong surr bom s t u hfeed hroom hcarried horder hdone
  have hall : (s.input.map BitVec.toNat).all (isCarried surr) = true := by simpa using hcarried
  refine ⟨fun ht => ?_, fun hapart ht => ?_, fun ht => ?_⟩
  · exact exec_transcoded (le := le) (strict := strict) (other := le)
      (op := fun _ strict bom => .utf8B2c strict overlong surr bom) (form := fun _ => utf8Form)
      (by simp [codepointToByteOps]) (utf8B2cOnWellFormedText overlong surr) (utf8Text_encodedText hall) hcarried (fun _ => rfl) ht hdone hfeed hroom
  · exact exec_transcoded (strict := strict) (op := fun le strict bom => .utf16B2c le strict surr bom)
      (by simp [codepointToByteOps]) (utf16B2c_wellFormedTextRule surr) ⟨hall, hapart, rfl⟩ hcarried horder ht hdone
      hfeed hroom
  · exact exec_transcoded (strict := strict) (op := fun le strict bom => .utf32B2c le strict surr bom)
      (by simp [codepointToByteOps]) (utf32B2c_wellFormedTextRule surr) ⟨hall, rfl⟩ hcarried horder ht hdone hfeed hroom

end Sys2Proof.Machine
end

section
/-! PROOFS. The statements on UTF16_B2C and UTF32_B2C (R222, R223, R225, R227): each row of R227 is one malformed unit, and
the text before it does not join with it. -/

namespace Sys2Proof.Machine

/-! ### Malformed UTF-16 -/

section
variable {le surr : Bool}

/-- A unit's value in numbers (R221). -/
theorem unit16_ofNat {x y : Nat} (hx : x < 256) (hy : y < 256) :
    unit16 le (BitVec.ofNat 8 x) (BitVec.ofNat 8 y) = if le then y * 256 + x else x * 256 + y := by
  have hnil : assemble true [] = 0 := rfl
  cases le <;>
    simp [unit16, assemble_false, assemble_true_cons, hnil, Nat.mod_eq_of_lt hx, Nat.mod_eq_of_lt hy, Nat.mul_comm 256,
      Nat.add_comm]

/-- The statements' test for a low surrogate half is the one on bytes. -/
theorem startsWithLow_asBytes_iff {xs : List Nat} (hlt : ∀ x ∈ xs, x < 256) :
    StartsWithLow le (asBytes xs) ↔ startsLow le xs = true := by
  match xs with
  | [] | [_] => simp [StartsWithLow, startsLow, asBytes]
  | x :: y :: t =>
    have hunit : unit16 le (BitVec.ofNat 8 x) (BitVec.ofNat 8 y) = if le then y * 256 + x else x * 256 + y :=
      unit16_ofNat (hlt x (by simp)) (hlt y (by simp))
    simp only [startsLow, Bool.and_eq_true, decide_eq_true_eq, ← hunit]
    constructor
    · rintro ⟨_, _, _, heq, hlow⟩
      cases heq
      exact hlow
    · exact fun hlow => ⟨_, _, _, rfl, hlow⟩

/-- The three rows of R227 for UTF16_B2C. -/
theorem MalformedUtf16.readsUnit {unit rest : List Nat} (h : MalformedUtf16 le surr unit rest)
    (hlt : ∀ x ∈ unit ++ rest, x < 256) : ReadsUnit (utf16Unit le surr) none (asBytes unit) (asBytes rest) := by
  cases h with
  | high u _ hhigh alone off =>
    obtain ⟨b0, b1, hbytes, rfl⟩ := exists_unit16Form le (by omega : u < 0x10000)
    have halone : ¬StartsWithLow le (asBytes rest) := by
      rw [startsWithLow_asBytes_iff fun x hx => hlt x (List.mem_append_right _ hx), alone]
      decide
    subst off
    exact ⟨b0, [b1], hbytes, utf16Unit_of_high_alone hhigh halone⟩
  | low u _ hlow off =>
    obtain ⟨b0, b1, hbytes, rfl⟩ := exists_unit16Form le (by omega : u < 0x10000)
    subst off
    exact ⟨b0, [b1], hbytes, utf16Unit_of_low hlow⟩
  | leftover b _ => exact ⟨BitVec.ofNat 8 b, [], rfl, rfl⟩

/-- With ALLOW_SURR only a leftover byte is malformed, and that is no surrogate half. -/
theorem MalformedUtf16.not_startsWithLow {unit rest : List Nat} (h : MalformedUtf16 le true unit rest) :
    ¬StartsWithLow le (asBytes (unit ++ rest)) := by
  cases h with
  | high _ _ _ _ off | low _ _ _ off => cases off
  | leftover b _ =>
    rintro ⟨_, _, _, heq, -⟩
    cases heq

/-! ### Malformed UTF-32 -/

/-- Any unit of four bytes, malformed unless its value may be carried (R225, R227). -/
theorem readsUnit_utf32Form {u : Nat} (h : u < 2 ^ 32) (rest : List Byte) :
    ReadsUnit (utf32Unit le surr) (if isCarried surr u then some u else none) (asBytes (utf32Form le u)) rest := by
  rw [← bytesOf_four_eq]
  obtain ⟨b0, b1, b2, b3, hbytes⟩ : ∃ b0 b1 b2 b3, bytesOf 4 le u = [b0, b1, b2, b3] := by
    cases le <;> exact ⟨_, _, _, _, rfl⟩
  have hvalue : assemble le [b0, b1, b2, b3] = u := by
    rw [← hbytes, assemble_bytesOf]
    exact Nat.mod_eq_of_lt h
  refine ⟨b0, [b1, b2, b3], hbytes, ?_⟩
  simp only [List.cons_append, List.nil_append]
  rw [utf32Unit_of_four, hvalue]
  rfl

/-- The three rows of R227 for UTF32_B2C. -/
theorem MalformedUtf32.readsUnit {unit rest : List Nat} (h : MalformedUtf32 le surr unit rest) :
    ReadsUnit (utf32Unit le surr) none (asBytes unit) (asBytes rest) := by
  cases h with
  | above u _ h =>
    have hnot : ¬isCarried surr u = true := fun hcarried => absurd (le_of_isCarried hcarried) (by omega)
    simpa [hnot] using readsUnit_utf32Form (le := le) (surr := surr) h.2 (asBytes rest)
  | half u _ h off =>
    have hnot : ¬isCarried surr u = true := fun hcarried => by
      rw [surr_of_isCarried_half hcarried h.1 h.2] at off
      cases off
    simpa [hnot] using readsUnit_utf32Form (le := le) (surr := surr) (by omega : u < 2 ^ 32) (asBytes rest)
  | leftover _ h =>
    match unit, h with
    | [b], _ => exact ⟨BitVec.ofNat 8 b, [], rfl, rfl⟩
    | [b, c], _ => exact ⟨BitVec.ofNat 8 b, [BitVec.ofNat 8 c], rfl, rfl⟩
    | [b, c, d], _ => exact ⟨BitVec.ofNat 8 b, [BitVec.ofNat 8 c, BitVec.ofNat 8 d], rfl, rfl⟩
    | [], ⟨hsome, _⟩ => cases hsome
    | _ :: _ :: _ :: _ :: t, ⟨_, hfew⟩ => exact absurd hfew (by simp)

end

/-! ### The obligations -/

/-- Settles O49: the mark decides the order, and the text is read unit by unit (`Utf16Text.readsText`). -/
theorem utf16B2cOnWellFormedText : Obligations.Utf16B2cOnWellFormedText := utf16B2c_wellFormedTextRule

/-- Settles O50: the mark decides the order, and the text is read unit by unit (`Utf32Text.readsText`). -/
theorem utf32B2cOnWellFormedText : Obligations.Utf32B2cOnWellFormedText := utf32B2c_wellFormedTextRule

/-- Settles O53: after the text, each row of R227 is one malformed unit, and an unpaired high half at the text's end is not
joined with it (`MalformedUtf16.not_startsWithLow`). -/
theorem malformedUtf16AndUtf32Units : Obligations.MalformedUtf16AndUtf32Units := fun surr =>
  ⟨(utf16B2c_decodesUnits surr).malformedUnitRule
      (fun _ _ _ _ _ htext hmal _ => htext.readsText fun hsurr => by
        subst hsurr
        exact hmal.not_startsWithLow)
      fun _ _ _ hmal hlt => hmal.readsUnit hlt,
    (utf32B2c_decodesUnits surr).malformedUnitRule (fun _ _ _ _ _ htext _ _ => htext.readsText _)
      fun _ _ _ hmal _ => hmal.readsUnit⟩

end Sys2Proof.Machine
end

section
/-! PROOFS. The statements on errors (60_exceptions.md): which words are no command, and which op ends with which
error. -/

namespace Sys2Proof

/-! ### Illegal command words -/

/-- The OP values that R77 lists as reserved. -/
def IsReservedOp (op : Nat) : Prop :=
  op < 0x10 ∨ (0x12 ≤ op ∧ op ≤ 0x1F) ∨ (0x24 ≤ op ∧ op ≤ 0x2F) ∨ (0x42 ≤ op ∧ op ≤ 0x47) ∨
    (0x4A ≤ op ∧ op ≤ 0x4F) ∨ (0x51 ≤ op ∧ op ≤ 0x5F) ∨ (0x66 ≤ op ∧ op ≤ 0x6F) ∨ (0x71 ≤ op ∧ op ≤ 0x7F) ∨
    0x82 ≤ op

/-- No row of the op table has a reserved OP value (R75, R77). -/
theorem not_isReservedOp_of_mem_opRows : ∀ r ∈ opRows, ¬IsReservedOp r.op.toNat := by
  unfold IsReservedOp
  decide

theorem exists_decode_error_of_not_legalWord {c : Lane} (h : legalWord c = false) : ∃ e, decode c = .error e := by
  cases hdec : decode c with
  | error e => exact ⟨e, rfl⟩
  | ok i =>
    obtain ⟨r, hr, hadm, -⟩ := admits_of_decode hdec
    rw [(legalWord_iff c).2 ⟨r, hr, hadm⟩] at h
    cases h

theorem OpRow.Admits.toNat_mod {r : OpRow} {c : Lane} (h : r.Admits c) : c.toNat % 256 = r.op.toNat := by
  obtain ⟨-, hop, -⟩ := h
  rw [← hop, BitVec.toNat_and]
  exact (Nat.and_two_pow_sub_one_eq_mod c.toNat 8).symm

theorem OpRow.Admits.toNat_lt {r : OpRow} {c : Lane} (h : r.Admits c) : c.toNat < 2 ^ 15 := by
  obtain ⟨hres, -, -⟩ := h
  bv_omega

/-- A legal word has none of the three defects that R77 names. -/
theorem not_defective_of_legalWord {c : Lane} (h : legalWord c = true) :
    ¬IsReservedOp (c.toNat % 256) ∧ c.toNat < 2 ^ 15 ∧
      ∀ q ∈ opRows, c &&& 0xFF = q.op → c &&& 0x7F00 &&& ~~~q.accepted = 0 := by
  obtain ⟨r, hr, hadm⟩ := (legalWord_iff c).1 h
  refine ⟨?_, hadm.toNat_lt, fun q hq hlow => ?_⟩
  · rw [hadm.toNat_mod]
    exact not_isReservedOp_of_mem_opRows r hr
  · obtain ⟨-, hop, hflags⟩ := hadm
    obtain rfl := opRows_eq_of_op_eq r hr q hq (hop.symm.trans hlow)
    exact hflags

end Sys2Proof

namespace Sys2Proof.Machine

/-- Settles O6: an illegal word does not decode, so it leaves the report of R305; and a word with a defect that R77
names is not legal (`not_defective_of_legalWord`). -/
theorem illegalWordsEndWithEIllegal : Obligations.IllegalWordsEndWithEIllegal := by
  refine ⟨fun s c hc => ?_, rfl, fun c hdefect => ?_⟩
  · obtain ⟨e, hdec⟩ := exists_decode_error_of_not_legalWord hc
    have hwrite : hostAccess (.writeReg 0 c) s = commandWrite c s := rfl
    rw [hwrite, commandWrite, hdec, State.illegalCommand_eq]
  · by_contra hlegal
    obtain ⟨hop, hres, hflags⟩ := not_defective_of_legalWord (Bool.not_eq_false _ ▸ hlegal)
    have hdefect : IsReservedOp (c.toNat % 256) ∨ 2 ^ 15 ≤ c.toNat ∨
        ∃ r ∈ opRows, c &&& 0xFF = r.op ∧ c &&& 0x7F00 &&& ~~~r.accepted ≠ 0 := by
      simpa only [IsReservedOp, or_assoc] using hdefect
    rcases hdefect with hreserved | hhigh | ⟨r, hr, hlow, hflag⟩
    · exact hop hreserved
    · exact absurd hres (Nat.not_lt.2 hhigh)
    · exact hflag (hflags r hr hlow)

/-! ### The errors of each op -/

/-- Which op can end with which error of its own (R300, last column). -/
inductive MayRaise : Instr → ErrorCode → Prop where
  | utf8B2c (overlong surr bom : Bool) : MayRaise (.utf8B2c true overlong surr bom) .format
  | utf16B2c (le surr bom : Bool) : MayRaise (.utf16B2c le true surr bom) .format
  | utf32B2c (le surr bom : Bool) : MayRaise (.utf32B2c le true surr bom) .format
  | utf8C2b (bom : Bool) : MayRaise (.utf8C2b true false bom) .format
  | utf16C2b (le bom : Bool) : MayRaise (.utf16C2b le true false bom) .format
  | utf32C2b (le bom : Bool) : MayRaise (.utf32C2b le true false bom) .format
  | utf8C2bRange (strict surr bom : Bool) : MayRaise (.utf8C2b strict surr bom) .range
  | utf16C2bRange (le strict surr bom : Bool) : MayRaise (.utf16C2b le strict surr bom) .range
  | utf32C2bRange (le strict surr bom : Bool) : MayRaise (.utf32C2b le strict surr bom) .range
  | vlqdec {code : ErrorCode} (h : code = .format ∨ code = .range ∨ code = .badchar) : MayRaise .vlqdec code
  | wsdec (nomask : Bool) : MayRaise (.wsdec nomask) .format

/-- WSENC's range check passes for every payload that ILEN can count (R263). -/
theorem wsEncode_ne_error {nomask hasmask : Bool} {arg0 arg1 : Lane} {payload : List Byte}
    (h : payload.length < 2 ^ 64) (e : OpError) : wsEncode nomask hasmask arg0 arg1 payload ≠ .error e := by
  rw [wsEncode, if_neg (by omega)]
  exact nofun

/-- An op's own error is one that R300 lists for it. -/
theorem mayRaise_of_opOf_error {i : Instr} {arg0 arg1 : Lane} {input : List Lane} {e : OpError}
    (hlen : input.length < 2 ^ 64) (h : opOf i arg0 arg1 input = .error e) : MayRaise i e.code := by
  cases i
  case vlqdec => exact .vlqdec (vlqDecodeFrom_error _ _ _ _ _ _ (raisingOutputs_error.1 h))
  case utf8B2c | utf16B2c | utf32B2c =>
    obtain ⟨rfl, hcode⟩ := decodeFrom_error _ _ _ _ _ _ (codepointOutputs_error.1 h)
    rw [hcode]
    constructor
  case utf8C2b | utf16C2b | utf32C2b =>
    rcases encodeFrom_error _ _ _ _ _ _ (encodedOutputs_error.1 h) with hcode | ⟨rfl, rfl, hcode⟩
    all_goals
      rw [hcode]
      constructor
  case wsenc =>
    have hw := raisingOutputs_error.1 h
    split at hw
    · cases hw
    · exact absurd ‹_› (wsEncode_ne_error (by simpa using hlen) _)
  case wsdec =>
    rw [wsDecode_error h]
    exact .wsdec _
  all_goals cases h

theorem State.input_length_lt (s : State) : s.input.length < 2 ^ 64 := by
  rw [State.input_length]
  exact s.ilen.isLt

/-- R302's list has none of the ops that R300 names in its last column. -/
theorem neverRaises_of_mayRaise {i : Instr} {code : ErrorCode} (h : MayRaise i code) : neverRaises i = false := by
  cases h <;> rfl

/-- Settles O14: of the four ends of a command (`State.runOp_branches`), the input check and the op's own error are
excluded. -/
theorem listedOpsNeverRaise : Obligations.ListedOpsNeverRaise := by
  intro i s t hnever hready ht
  rw [exec_next ht]
  rcases State.runOp_branches s (opOf i s.arg0 s.arg1) with
    ⟨hlong, -⟩ | ⟨e, herr, -⟩ | ⟨r, -, -, hrun⟩ | ⟨r, -, -, hrun⟩
  · exact absurd hready (Nat.not_le.2 hlong)
  · have hraises := neverRaises_of_mayRaise (mayRaise_of_opOf_error s.input_length_lt herr)
    exact nomatch hnever.symm.trans hraises
  · exact .inr hrun
  · rw [hrun]
    exact .inl ⟨rfl, rfl, rfl⟩

/-- Settles O15: STATUS tells the error (R303), and the error tells the op (`mayRaise_of_opOf_error`). -/
theorem errorsComeOnlyFromTheListedOps : Obligations.ErrorsComeOnlyFromTheListedOps := by
  intro i s t ht
  rw [exec_next ht]
  rcases State.runOp_branches s (opOf i s.arg0 s.arg1) with
    ⟨-, hrun⟩ | ⟨e, herr, hrun⟩ | ⟨r, -, -, hrun⟩ | ⟨r, -, -, hrun⟩
  case inr.inl =>
    have hraise := mayRaise_of_opOf_error s.input_length_lt herr
    rw [hrun, State.failed_status]
    generalize e.code = code at hraise
    cases hraise
    case vlqdec h => rcases h with rfl | rfl | rfl <;> simp [ErrorCode.report]
    all_goals simp [ErrorCode.report]
  all_goals simp [hrun]

end Sys2Proof.Machine
end

section
/-! PROOFS. The statements on reset and on several contexts (R322, R340, R341). -/

namespace Sys2Proof.Machine

/-! ### Reset -/

/-- The register table of R340. -/
theorem State.resetWith_register (icap ocap : Lane) (i : Nat) :
    (State.resetWith icap ocap).register i = if i = 6 then icap else if i = 7 then ocap else 0 :=
  match i with
  | 0 | 1 | 2 | 3 | 4 | 5 | 6 | 7 | 8 | 9 | 10 | 11 | 12 | 13 | 14 => rfl
  | n + 15 => by
    rw [if_neg (by omega), if_neg (by omega)]
    rfl

theorem State.readIbuf_of_empty {s : State} (h : s.ibuf = []) (i : Nat) : s.readIbuf i = 0 := by
  simp [State.readIbuf, h]

theorem State.readObuf_of_empty {s : State} (h : s.obuf = []) (i : Nat) : s.readObuf i = 0 := by
  simp [State.readObuf, h]

/-- The host's part of the state, which a platform reset keeps, is in no register. -/
theorem State.platformReset_register (s : State) (i : Nat) :
    s.platformReset.register i = (State.resetWith s.icap s.ocap).register i := by
  rw [State.register_eq_getD, State.register_eq_getD]
  rfl

/-- Settles O21. -/
theorem resetLeavesTheTable : Obligations.ResetLeavesTheTable := by
  intro icap ocap i s
  refine ⟨State.resetWith_register icap ocap i, State.readIbuf_of_empty rfl i, State.readObuf_of_empty rfl i, rfl,
    s.platformReset, rfl, State.readIbuf_of_empty rfl i, State.readObuf_of_empty rfl i, ?_⟩
  rw [State.platformReset_register, State.resetWith_register]

/-- Settles O23: a platform reset leaves a context right after reset as it is, and meets the invariant
(`State.platformReset_inv`). -/
theorem resetMeetsTheInvariant : Obligations.ResetMeetsTheInvariant := by
  have hreset (icap ocap : Lane) : (State.resetWith icap ocap).Inv :=
    State.platformReset_inv (State.resetWith icap ocap)
  exact fun icap ocap => ⟨hreset icap ocap, hreset _ _⟩

/-! ### Several contexts -/

/-- What a step of context `k` does: that context takes its own step, and nothing else happens (R322). -/
theorem blockStep_eq_next_iff {k : Nat} {b b' : Block} :
    Block.step k b = .next b' ↔
      ∃ s t, b.contexts[k]? = some s ∧ step s = .next t ∧ b' = ⟨b.contexts.set k t⟩ := by
  unfold Block.step
  cases b.contexts[k]? with
  | none => simp
  | some s => cases hstep : step s <;> simp [hstep, eq_comm]

/-- Settles O24: a step replaces one context of the list (`blockStep_eq_next_iff`), and replacements at two places
commute. -/
theorem contextsShareNothing : Obligations.ContextsShareNothing := by
  intro b b1 j k hjk hj
  obtain ⟨s, t, hs, hst, rfl⟩ := blockStep_eq_next_iff.1 hj
  have hjlt : j < b.contexts.length := (List.getElem?_eq_some_iff.1 hs).1
  refine ⟨List.getElem?_set_ne hjk, ⟨s, t, hs, hst, List.getElem?_set_self hjlt⟩, fun b2 hk => ?_⟩
  obtain ⟨u, v, hu, huv, rfl⟩ := blockStep_eq_next_iff.1 hk
  refine ⟨⟨(b.contexts.set j t).set k v⟩, blockStep_eq_next_iff.2 ⟨u, v, ?_, huv, rfl⟩,
    blockStep_eq_next_iff.2 ⟨s, t, ?_, hst, ?_⟩⟩
  · exact (List.getElem?_set_ne hjk).trans hu
  · exact (List.getElem?_set_ne hjk.symm).trans hs
  · rw [List.set_comm _ _ hjk]

end Sys2Proof.Machine
end

section
/-! PROOFS. The statement on PNGRGBA (47_png.md): the stream is built of the same pieces as the rule's byte map, each
piece told as the numbers of its bytes. -/

namespace Sys2Proof.Machine

theorem asBytes_map_toNat (bs : List Byte) : asBytes (bs.map BitVec.toNat) = bs := by
  simp [asBytes, Function.comp_def]

/-- The bytes of a 32-bit field, most significant first (R55, R132). -/
theorem bytesOf_four_toNat (v : Nat) : (bytesOf 4 false v).map BitVec.toNat = bigEndian32 v := by
  simp [bytesOf_toNat, List.range_succ, bigEndian32]

theorem be32_toNat (v : Word32) : (be32 v).map BitVec.toNat = bigEndian32 v.toNat := bytesOf_four_toNat v.toNat

@[simp] theorem be32_length (v : Word32) : (be32 v).length = 4 := bytesOf_length 4 false v.toNat

/-! ### The raw data -/

/-- The four rows are alike (R253). -/
theorem rawByteAt_row (arg0 r j : Nat) : rawByteAt arg0 (17 * r + j) = rawByteAt arg0 j := by
  have hmod : (17 * r + j) % 17 = j % 17 := Nat.mul_add_mod 17 r j
  simp only [rawByteAt, hmod]

theorem pixelOf_toNat (arg0 : Lane) :
    (pixelOf arg0).map BitVec.toNat = (List.range 4).map fun c => arg0.toNat / 256 ^ (3 - c) % 256 := by
  simp [pixelOf, List.range_succ, Nat.shiftRight_eq_div_pow]

/-- A row is the filter byte and four times the pixel (R253). -/
theorem pngRow_toNat (arg0 : Lane) :
    (pngRow (pixelOf arg0)).map BitVec.toNat = (List.range 17).map (rawByteAt arg0.toNat) := by
  simp [pngRow, pixelOf_toNat, List.range_succ, rawByteAt]

theorem pngRaw_toNat (arg0 : Lane) :
    (pngRaw (pixelOf arg0)).map BitVec.toNat = (List.range 68).map (rawByteAt arg0.toNat) := by
  have hrange : List.range 68 = (List.range 4).flatMap fun r => (List.range 17).map fun j => 17 * r + j := by decide
  have hrow (r : Nat) : ((List.range 17).map fun j => 17 * r + j).map (rawByteAt arg0.toNat) =
      (pngRow (pixelOf arg0)).map BitVec.toNat := by
    rw [pngRow_toNat, List.map_map]
    exact List.map_congr_left fun j _ => rawByteAt_row _ r j
  rw [hrange, List.map_flatMap]
  simp only [hrow]
  simp [pngRaw, List.range_succ]

/-! ### The chunks -/

theorem pngChunk_toNat (type data : List Byte) :
    (pngChunk type data).map BitVec.toNat =
      bigEndian32 (BitVec.ofNat 32 data.length).toNat ++ (type ++ data).map BitVec.toNat
        ++ bigEndian32 (crc32 (type ++ data)).toNat := by
  simp [pngChunk, be32_toNat]

/-- The two chunks that hold no colour, with their checksums (R252, R255). -/
theorem pngChunk_constants_toNat :
    (pngChunk typeIHDR ihdrData).map BitVec.toNat =
      [0x00, 0x00, 0x00, 0x0D, 0x49, 0x48, 0x44, 0x52, 0x00, 0x00, 0x00, 0x04, 0x00, 0x00, 0x00, 0x04,
        0x08, 0x06, 0x00, 0x00, 0x00, 0xA9, 0xF1, 0x9E, 0x7E] ∧
    (pngChunk typeIEND []).map BitVec.toNat =
      [0x00, 0x00, 0x00, 0x00, 0x49, 0x45, 0x4E, 0x44, 0xAE, 0x42, 0x60, 0x82] := by
  decide +kernel

theorem pngZlib_length (arg0 : Lane) : (pngZlib (pixelOf arg0)).length = 0x4F := by
  have hraw : (pngRaw (pixelOf arg0)).length = 68 := rfl
  simp [pngZlib, hraw]

theorem pngStream_length (arg0 : Lane) : (pngStream (pixelOf arg0)).length = 136 := by
  simp [pngStream, pngChunk, pngZlib_length, pngSignature, ihdrData, typeIHDR, typeIDAT, typeIEND]

/-- Settles O57: signature, IHDR, IDAT and IEND in turn, the raw data by `pngRaw_toNat`. -/
theorem pngrgbaResult : Obligations.PngrgbaResult := by
  intro s hroom raw idat
  have hraw : (pngRaw (pixelOf s.arg0)).map BitVec.toNat = raw := pngRaw_toNat s.arg0
  have hrawBytes : asBytes raw = pngRaw (pixelOf s.arg0) := by rw [← hraw, asBytes_map_toNat]
  have hidat : (typeIDAT ++ pngZlib (pixelOf s.arg0)).map BitVec.toNat = idat := by
    simp [idat, pngZlib, hraw, hrawBytes, be32_toNat, typeIDAT]
  have hchunk : (pngChunk typeIDAT (pngZlib (pixelOf s.arg0))).map BitVec.toNat =
      [0x00, 0x00, 0x00, 0x4F] ++ idat ++ bigEndian32 (crc32 (asBytes idat)).toNat := by
    rw [pngChunk_toNat, pngZlib_length, ← hidat, asBytes_map_toNat]
    rfl
  have hsignature : pngSignature.map BitVec.toNat = [0x89, 0x50, 0x4E, 0x47, 0x0D, 0x0A, 0x1A, 0x0A] := rfl
  obtain ⟨hihdr, hiend⟩ := pngChunk_constants_toNat
  have hexec : exec .pngrgba s = .next (s.completed ((pngStream (pixelOf s.arg0)).map byteLane) 0 0 0 0 0) :=
    exec_of_outputs rfl (by rwa [List.length_map, pngStream_length])
  rw [map_byteLane] at hexec
  simpa only [pngStream, List.map_append, hsignature, hihdr, hchunk, hiend, ← List.append_assoc] using hexec

end Sys2Proof.Machine
end

section
/-! PROOFS. The statements on the WebSocket framer (48_websocket.md): a frame is two bytes, the extended length, the key
and the payload, and each field is `bytesOf` of a number, which `groupValue` reads back. -/

namespace Sys2Proof.Machine

/-! ### Bytes by position -/

theorem ByteTable.map_byteLane {bs : List Byte} {x : Nat → Nat} (hx : ByteTable bs x) :
    bs.map byteLane = laneTable bs.length x := by
  refine List.ext_getElem (by simp) fun k hk _ => ?_
  have hk : k < bs.length := by simpa using hk
  simp [laneTable, byteLane_eq_ofNat, hx k hk]

theorem ByteTable.drop {bs : List Byte} {x : Nat → Nat} (hx : ByteTable bs x) (p : Nat) :
    ByteTable (bs.drop p) fun k => x (p + k) := by
  intro k hk
  have hpk : p + k < bs.length := by simpa [Nat.add_comm, Nat.lt_sub_iff_add_lt] using hk
  simpa using hx (p + k) hpk

theorem ByteTable.take {bs : List Byte} {x : Nat → Nat} (hx : ByteTable bs x) (n : Nat) : ByteTable (bs.take n) x := by
  intro k hk
  have hk' : k < bs.length := by
    rw [List.length_take] at hk
    omega
  simpa using hx k hk'

/-- The number that the `w` bytes from place `p` on make up (R131). -/
theorem ByteTable.assemble_take {bs : List Byte} {x : Nat → Nat} (hx : ByteTable bs x) {p w : Nat}
    (h : p + w ≤ bs.length) : assemble false ((bs.drop p).take w) = groupValue w false x p := by
  have hlen : ((bs.drop p).take w).length = w := by
    rw [List.length_take, List.length_drop]
    omega
  have hsum := assemble_eq_groupValue false x ((bs.drop p).take w) p ((hx.drop p).take w)
  rwa [hlen] at hsum

/-- Byte `j` of a number, most significant first, by position (R132). -/
theorem bytesOf_getD (v : Nat) {w j : Nat} (hj : j < w) :
    ((bytesOf w false v).map BitVec.toNat).getD j 0 = v / 256 ^ (w - 1 - j) % 256 := by
  simp [bytesOf_toNat, hj]

theorem byteTable_map_toNat (bs : List Byte) : ByteTable bs fun k => (bs.map BitVec.toNat).getD k 0 := by
  intro k hk
  simp [hk]

/-- `groupValue` reads back the bytes of a number (R131, R132). -/
theorem groupValue_of_bytes {w v p : Nat} {x : Nat → Nat}
    (h : ∀ j < w, x (p + j) = v / 256 ^ (w - 1 - j) % 256) : groupValue w false x p = v % 256 ^ w := by
  have hsum := assemble_eq_groupValue false x (bytesOf w false v) p fun j hj => by
    have hj' : j < w := by rwa [bytesOf_length] at hj
    exact (byteTable_map_toNat _ j hj).trans ((bytesOf_getD v hj').trans (h j hj').symm)
  rwa [bytesOf_length, assemble_bytesOf, eq_comm] at hsum

/-! ### Masking (R261) -/

theorem applyMask_length (mask : List Byte) (bs : List Byte) : ∀ i, (applyMask mask i bs).length = bs.length := by
  induction bs with
  | nil => exact fun _ => rfl
  | cons b t ih => exact fun i => congrArg (· + 1) (ih (i + 1))

theorem applyMask_getElem (mask : List Byte) (bs : List Byte) : ∀ (i k : Nat) (hk : k < (applyMask mask i bs).length)
    (hk' : k < bs.length), (applyMask mask i bs)[k] = bs[k] ^^^ mask.getD ((i + k) % 4) 0 := by
  induction bs with
  | nil => exact fun _ _ hk => absurd hk (Nat.not_lt_zero _)
  | cons b t ih =>
    intro i k hk hk'
    cases k with
    | zero => rfl
    | succ k =>
      have hrest := ih (i + 1) k (Nat.lt_of_succ_lt_succ hk) (Nat.lt_of_succ_lt_succ hk')
      rw [Nat.add_right_comm] at hrest
      exact hrest

/-- Masking with the four bytes of a key is the rule's exclusive-or, byte by byte. -/
theorem ByteTable.applyMask {bs : List Byte} {x : Nat → Nat} (hx : ByteTable bs x) (key : Nat) :
    ByteTable (applyMask (bytesOf 4 false key) 0 bs) fun k => maskedByte key k (x k) := by
  intro k hk
  have hk' : k < bs.length := by rwa [applyMask_length] at hk
  have hmod : k % 4 < 4 := Nat.mod_lt _ (by decide)
  have hmask : ((bytesOf 4 false key).getD (k % 4) 0).toNat = key / 256 ^ (3 - k % 4) % 256 :=
    (List.getD_map _ _ BitVec.toNat).symm.trans (bytesOf_getD key hmod)
  rw [applyMask_getElem _ _ _ _ hk hk', Nat.zero_add, BitVec.toNat_xor, hx k hk', hmask]
  rfl

/-- The bytes under a key if `p` holds, and else as they are (R263, R264). -/
def maskedIf (p : Prop) [Decidable p] (key : Nat) (bs : List Byte) : List Byte :=
  if p then applyMask (bytesOf 4 false key) 0 bs else bs

theorem maskedIf_length (p : Prop) [Decidable p] (key : Nat) (bs : List Byte) :
    (maskedIf p key bs).length = bs.length := by
  unfold maskedIf
  split_ifs
  · exact applyMask_length ..
  · rfl

theorem ByteTable.maskedIf {bs : List Byte} {x : Nat → Nat} (hx : ByteTable bs x) (p : Prop) [Decidable p] (key : Nat) :
    ByteTable (maskedIf p key bs) fun k => if p then maskedByte key k (x k) else x k := by
  unfold Machine.maskedIf
  split_ifs
  · exact hx.applyMask key
  · exact hx

theorem maskedByte_mod (key i b : Nat) : maskedByte (key % 256 ^ 4) i b = maskedByte key i b := by
  have hi : i % 4 < 4 := Nat.mod_lt _ (by decide)
  have hdigit : key % 256 ^ 4 / 256 ^ (3 - i % 4) % 256 = key / 256 ^ (3 - i % 4) % 256 := by
    interval_cases i % 4 <;> omega
  rw [maskedByte, maskedByte, hdigit]

/-- Masking twice is no masking (R265). -/
theorem maskedByte_maskedByte (key i b : Nat) : maskedByte key i (maskedByte key i b) = b :=
  Nat.xor_xor_cancel_right ..

/-! ### The header that WSENC builds -/

/-- Bits that lie above all bits of the other number are added. -/
theorem or_eq_add_of_mod_eq_zero {a b i : Nat} (ha : a % 2 ^ i = 0) (hb : b < 2 ^ i) : a ||| b = a + b := by
  rw [← Nat.mul_div_cancel' (Nat.dvd_of_mod_eq_zero ha), Nat.two_pow_add_eq_or_of_lt hb]

theorem or_shiftLeft_eq_add {a i : Nat} (h : a < 2 ^ i) (b : Nat) : a ||| b <<< i = a + b * 2 ^ i := by
  rw [Nat.or_comm, shiftLeft_or_eq_mul_add b h, Nat.add_comm]

theorem maskOf_eq (arg1 : Lane) : maskOf arg1 = bytesOf 4 false arg1.toNat := by
  rw [← asBytes_map_toNat (bytesOf 4 false arg1.toNat), bytesOf_four_toNat]
  simp [maskOf, asBytes, bigEndian32, ← BitVec.toNat_inj, Nat.shiftRight_eq_div_pow]

/-- Byte 0 of the frame that WSENC builds, as a number (R262, R263). -/
def frameByte0Value (arg0 : Nat) : Nat :=
  arg0 % 2 * 128 + arg0 / 2 % 2 * 64 + arg0 / 4 % 2 * 32 + arg0 / 8 % 2 * 16 + arg0 / 16 % 16

/-- The seven length bits of byte 1 for `n` payload bytes (R263). -/
def shortLength (n : Nat) : Nat := if n ≤ 125 then n else if n ≤ 65535 then 126 else 127

/-- How many bytes the extended length takes up for `n` payload bytes (R263). -/
def extensionLength (n : Nat) : Nat := if n ≤ 125 then 0 else if n ≤ 65535 then 2 else 8

/-- The rule's three length forms, `m` the value of the mask bit, are one: byte 1 and then the bytes of the length. -/
theorem lengthForm_eq (m n : Nat) :
    (if n ≤ 125 then [m + n]
      else if n ≤ 65535 then [m + 126, n / 256, n % 256]
      else (m + 127) :: (List.range 8).map fun j => n / 256 ^ (7 - j) % 256) =
      (m + shortLength n) :: (bytesOf (extensionLength n) false n).map BitVec.toNat := by
  unfold shortLength extensionLength
  by_cases h125 : n ≤ 125
  · simp only [if_pos h125]
    rfl
  · by_cases h65535 : n ≤ 65535
    · have hhigh : n / 256 % 256 = n / 256 := Nat.mod_eq_of_lt (by omega)
      simp [h125, h65535, bytesOf_toNat, List.range_succ, hhigh]
    · simp only [if_neg h125, if_neg h65535, bytesOf_toNat]
      rfl

theorem frameHeader_eq (hasmask : Bool) (arg0 arg1 n : Nat) :
    frameHeader hasmask arg0 arg1 n =
      frameByte0Value arg0 :: ((if hasmask then 128 else 0) + shortLength n) ::
        ((bytesOf (extensionLength n) false n).map BitVec.toNat ++
          if hasmask then (bytesOf 4 false arg1).map BitVec.toNat else []) := by
  simp only [frameHeader, lengthForm_eq, bytesOf_four_toNat]
  rfl

/-- Four flags and an opcode in their places in byte 0 (R262). -/
theorem packed_frameByte0 : ∀ f0 < 2, ∀ f1 < 2, ∀ f2 < 2, ∀ f3 < 2, ∀ opcode < 16,
    f0 <<< 7 % 256 ||| f1 <<< 6 % 256 ||| f2 <<< 5 % 256 ||| f3 <<< 4 % 256 ||| opcode =
      f0 * 128 + f1 * 64 + f2 * 32 + f3 * 16 + opcode := by
  decide

theorem frameByte0_toNat (arg0 : Lane) : (frameByte0 arg0).toNat = frameByte0Value arg0.toNat := by
  have hflag (x : Nat) : x % 2 < 2 := Nat.mod_lt _ (by decide)
  have hflagByte (x : Nat) : x % 2 % 256 = x % 2 := Nat.mod_eq_of_lt (by omega)
  have hopcodeByte (x : Nat) : x % 16 % 256 = x % 16 := Nat.mod_eq_of_lt (by omega)
  have hpacked := packed_frameByte0 _ (hflag arg0.toNat) _ (hflag (arg0.toNat / 2)) _ (hflag (arg0.toNat / 4)) _
    (hflag (arg0.toNat / 8)) (arg0.toNat / 16 % 16) (Nat.mod_lt _ (by decide))
  unfold frameByte0Value
  simpa only [frameByte0, BitVec.toNat_or, BitVec.toNat_shiftLeft, BitVec.toNat_setWidth, BitVec.extractLsb'_toNat,
    Nat.shiftRight_eq_div_pow, Nat.reducePow, Nat.div_one, hflagByte, hopcodeByte] using hpacked

theorem wsLength_toNat (m : Bool) (n : Nat) :
    (wsLength m n).map BitVec.toNat =
      ((if m then 128 else 0) + shortLength n) :: (bytesOf (extensionLength n) false n).map BitVec.toNat := by
  have hmaskBit {k : Nat} (hk : k < 128) :
      (BitVec.ofNat 8 ((if m = true then 1 <<< 7 else 0) ||| k)).toNat = (if m then 128 else 0) + k := by
    rw [or_eq_add_of_mod_eq_zero (i := 7) (by split <;> rfl) hk, BitVec.toNat_ofNat]
    split <;> simp <;> omega
  rw [wsLength, shortLength, extensionLength]
  by_cases h125 : n ≤ 125
  · simp only [if_pos h125, List.map_cons, hmaskBit (k := n) (by omega)]
    rfl
  · by_cases h65535 : n ≤ 65535
    · simp only [if_neg h125, if_pos h65535, List.map_cons, hmaskBit (k := 126) (by decide)]
    · simp only [if_neg h125, if_neg h65535, List.map_cons, hmaskBit (k := 127) (by decide)]

theorem frameHeader_lt (hasmask : Bool) (arg0 arg1 n : Nat) : ∀ x ∈ frameHeader hasmask arg0 arg1 n, x < 256 := by
  have hbytes (bs : List Byte) : ∀ x ∈ bs.map BitVec.toNat, x < 256 := by
    intro x hx
    obtain ⟨b, -, rfl⟩ := List.mem_map.1 hx
    exact b.isLt
  rw [frameHeader_eq, List.forall_mem_cons, List.forall_mem_cons, List.forall_mem_append]
  refine ⟨?_, ?_, hbytes _, ?_⟩
  · unfold frameByte0Value
    omega
  · unfold shortLength
    split_ifs <;> omega
  · split_ifs
    · exact hbytes _
    · exact List.forall_mem_nil _

/-- WSENC writes the rule's header and then the payload (R263). -/
theorem wsEncode_eq (nomask hasmask : Bool) (arg0 arg1 : Lane) {payload : List Byte} (h : payload.length < 2 ^ 64) :
    wsEncode nomask hasmask arg0 arg1 payload =
      .ok (asBytes (frameHeader hasmask arg0.toNat arg1.toNat payload.length)
        ++ maskedIf (hasmask = true ∧ nomask = false) arg1.toNat payload) := by
  have hheader : asBytes (frameHeader hasmask arg0.toNat arg1.toNat payload.length) =
      frameByte0 arg0 :: wsLength hasmask payload.length ++ if hasmask then maskOf arg1 else [] := by
    rw [← asBytes_map_toNat (_ ++ _), List.map_append, List.map_cons, frameByte0_toNat, wsLength_toNat, frameHeader_eq,
      maskOf_eq, apply_ite (List.map BitVec.toNat)]
    rfl
  rw [wsEncode, if_neg (by omega), hheader, maskedIf, maskOf_eq]
  simp

/-- The payload of the frame that WSENC builds in the state `s` (R263). -/
def State.sentPayload (s : State) (nomask hasmask : Bool) : List Byte :=
  maskedIf (hasmask = true ∧ nomask = false) s.arg1.toNat (byteInput s.input)

/-- The header of that frame, as numbers (R263). -/
def State.sentHeader (s : State) (hasmask : Bool) : List Nat :=
  frameHeader hasmask s.arg0.toNat s.arg1.toNat s.ilen.toNat

@[simp] theorem State.sentPayload_length (s : State) (nomask hasmask : Bool) :
    (s.sentPayload nomask hasmask).length = s.ilen.toNat := by
  rw [State.sentPayload, maskedIf_length, byteInput_length, State.input_length]

theorem State.byteTable_sentPayload (s : State) (nomask hasmask : Bool) :
    ByteTable (s.sentPayload nomask hasmask) fun k =>
      if hasmask = true ∧ nomask = false then maskedByte s.arg1.toNat k (s.byteAt k) else s.byteAt k :=
  s.byteTable_byteInput.maskedIf _ _

theorem State.map_toNat_sentHeader (s : State) (hasmask : Bool) :
    (asBytes (s.sentHeader hasmask)).map BitVec.toNat = s.sentHeader hasmask :=
  map_toNat_asBytes (frameHeader_lt _ _ _ _)

theorem opOf_wsenc (nomask hasmask : Bool) (s : State) :
    opOf (.wsenc nomask hasmask) s.arg0 s.arg1 s.input =
      outputs ((asBytes (s.sentHeader hasmask) ++ s.sentPayload nomask hasmask).map byteLane) := by
  have hlen : (byteInput s.input).length = s.ilen.toNat := by simp
  have hencode := wsEncode_eq nomask hasmask s.arg0 s.arg1 (payload := byteInput s.input)
    (by rw [hlen]; exact s.ilen.isLt)
  rw [hlen] at hencode
  rw [opOf, hencode]
  rfl

/-- Settles O58: the header by `frameHeader_eq`, the payload byte by byte. -/
theorem wsencResult : Obligations.WsencResult := by
  intro nomask hasmask s hroom
  have hop := opOf_wsenc nomask hasmask s
  rw [List.map_append, map_byteLane, s.map_toNat_sentHeader, (s.byteTable_sentPayload nomask hasmask).map_byteLane,
    s.sentPayload_length] at hop
  exact exec_of_outputs hop (by simpa [asLanes] using hroom)

/-! ### What WSDEC reads -/

/-- RES0 is R262's table, bit field by bit field. -/
theorem wsRes0_eq {byte0 m : Nat} (hbyte : byte0 < 256) (hm : m < 2) :
    wsRes0 byte0 m = BitVec.ofNat 64 (frameWord byte0 m) := by
  have hclass : ∀ opcode < 16, opClass opcode = opcodeClass opcode := by decide
  have hbit (x : Nat) : x &&& 1 = x % 2 := Nat.and_two_pow_sub_one_eq_mod x 1
  have hopcode : byte0 &&& 0x0F = byte0 % 16 := and_fifteen byte0
  simp only [wsRes0, hopcode, hbit, hclass _ (Nat.mod_lt byte0 (by decide : 0 < 16)), Nat.shiftRight_eq_div_pow,
    Nat.reducePow]
  rw [or_shiftLeft_eq_add (i := 1), or_shiftLeft_eq_add (i := 2), or_shiftLeft_eq_add (i := 3),
    or_shiftLeft_eq_add (i := 4), or_shiftLeft_eq_add (i := 8), or_shiftLeft_eq_add (i := 9)]
  · congr 1
    unfold frameWord
    omega
  all_goals omega

/-- What WSDEC gives for a frame of `n` bytes `x 0, x 1, ..` that holds its header (R264). -/
def frameResult (nomask : Bool) (x : Nat → Nat) (n : Nat) : OpResult where
  out := laneTable (min (frameFields x).declared (n - (frameFields x).header)) fun k =>
    if (frameFields x).masked = 1 ∧ nomask = false
    then maskedByte (frameFields x).key k (x ((frameFields x).header + k))
    else x ((frameFields x).header + k)
  r0 := BitVec.ofNat 64 (frameWord (x 0) (frameFields x).masked)
  r1 := BitVec.ofNat 64 (frameFields x).declared
  r2 := BitVec.ofNat 64 (frameFields x).key
  r3 := BitVec.ofNat 64 (frameFields x).header

/-- The bytes of the key in a frame with the bytes `bs`: none if the mask bit is 0 (R264). -/
def frameKey (bs : List Byte) (x : Nat → Nat) : List Byte :=
  if (frameFields x).masked = 1 then ((bs.drop 2).drop (frameFields x).extension).take 4 else []

section
variable {bs : List Byte} {x : Nat → Nat}

theorem frameFields_header (x : Nat → Nat) :
    (frameFields x).header = 2 + (frameFields x).extension + 4 * (frameFields x).masked := rfl

/-- The extended length of a frame that holds its header (R261). -/
theorem assemble_extension (hx : ByteTable bs x) (hwhole : (frameFields x).header ≤ bs.length) :
    assemble false ((bs.drop 2).take (frameFields x).extension) = groupValue (frameFields x).extension false x 2 := by
  rw [frameFields_header] at hwhole
  exact hx.assemble_take (by omega)

theorem assemble_frameKey (hx : ByteTable bs x) (hwhole : (frameFields x).header ≤ bs.length) :
    assemble false (frameKey bs x) = (frameFields x).key := by
  rw [frameFields_header] at hwhole
  by_cases hmasked : (frameFields x).masked = 1
  · rw [frameKey, if_pos hmasked, List.drop_drop, hx.assemble_take (by omega)]
    exact (if_pos hmasked).symm
  · rw [frameKey, if_neg hmasked]
    exact (if_neg hmasked).symm

/-- The key's four bytes are those of its number (R262). -/
theorem frameKey_eq (hx : ByteTable bs x) (hwhole : (frameFields x).header ≤ bs.length)
    (hmasked : (frameFields x).masked = 1) : frameKey bs x = bytesOf 4 false (frameFields x).key := by
  have hlen : (frameKey bs x).length = 4 := by
    rw [frameFields_header] at hwhole
    rw [frameKey, if_pos hmasked, List.length_take, List.length_drop, List.length_drop]
    omega
  have hbytes := bytesOf_assemble false (frameKey bs x)
  rwa [hlen, assemble_frameKey hx hwhole, eq_comm] at hbytes

/-- WSDEC masks with the bytes of the key, which is masking with its number. -/
theorem applyMask_frameKey (hx : ByteTable bs x) (hwhole : (frameFields x).header ≤ bs.length) (nomask : Bool)
    (body : List Byte) :
    (if (frameFields x).masked = 1 ∧ nomask = false then applyMask (frameKey bs x) 0 body else body) =
      maskedIf ((frameFields x).masked = 1 ∧ nomask = false) (frameFields x).key body :=
  ite_congr rfl (fun hp => by rw [frameKey_eq hx hwhole hp.1]) fun _ => rfl

/-- The payload that WSDEC puts out: what is there of the declared length, unmasked unless NOMASK = 1 (R264). -/
theorem frameResult_out (hx : ByteTable bs x) (nomask : Bool) :
    (maskedIf ((frameFields x).masked = 1 ∧ nomask = false) (frameFields x).key
      ((bs.drop (frameFields x).header).take
        (min (frameFields x).declared (bs.length - (frameFields x).header)))).map byteLane =
      (frameResult nomask x bs.length).out := by
  rw [(((hx.drop _).take _).maskedIf _ _).map_byteLane, maskedIf_length, List.length_take, List.length_drop,
    Nat.min_eq_left (Nat.min_le_right _ _)]
  rfl

end

/-- WSDEC on at least two bytes, by the fields of the frame (R264). -/
theorem wsDecode_eq (nomask : Bool) {bs : List Byte} {x : Nat → Nat} (hx : ByteTable bs x) (h2 : 2 ≤ bs.length) :
    wsDecode nomask bs =
      if bs.length < (frameFields x).header then .error ⟨.format, bs.length, (frameFields x).header⟩
      else .ok (frameResult nomask x bs.length) := by
  match bs, h2 with
  | b0 :: b1 :: rest, _ =>
    have h0 : b0.toNat = x 0 := hx 0 (by simp)
    have h1 : b1.toNat = x 1 := hx 1 (by simp)
    have hmasked : b1.toNat >>> 7 = (frameFields x).masked := by
      rw [h1, Nat.shiftRight_eq_div_pow]
      rfl
    have hmasked_lt : (frameFields x).masked < 2 := by
      rw [← hmasked, Nat.shiftRight_eq_div_pow]
      omega
    have hlen7 : b1.toNat &&& 0x7F = x 1 % 128 := by
      rw [h1]
      exact Nat.and_two_pow_sub_one_eq_mod (x 1) 7
    have hextension : wsExtension (x 1 % 128) = (frameFields x).extension := rfl
    have hkey : (if (frameFields x).masked = 1 then (rest.drop (frameFields x).extension).take 4 else []) =
        frameKey (b0 :: b1 :: rest) x := rfl
    rw [wsDecode]
    simp only [hmasked, hlen7, hextension, hkey, ← frameFields_header]
    by_cases hshort : (b0 :: b1 :: rest).length < (frameFields x).header
    · rw [if_pos hshort, if_pos hshort]
    · have hwhole := Nat.not_lt.1 hshort
      have hdeclared : (if (frameFields x).extension = 0 then x 1 % 128
          else assemble false (rest.take (frameFields x).extension)) = (frameFields x).declared :=
        congrArg _ (assemble_extension hx hwhole)
      rw [if_neg hshort, if_neg hshort, hdeclared, applyMask_frameKey hx hwhole, frameResult_out hx,
        assemble_frameKey hx hwhole, h0, wsRes0_eq (h0 ▸ b0.isLt) hmasked_lt]
      rfl

/-- Settles O59: the fields are read as R262 lays them out (`wsDecode_eq`); the three clauses are its three branches. -/
theorem wsdecResult : Obligations.WsdecResult := by
  intro nomask s
  have hlen : (byteInput s.input).length = s.ilen.toNat := by simp
  have hop : opOf (.wsdec nomask) s.arg0 s.arg1 s.input = wsDecode nomask (byteInput s.input) := rfl
  have hilen : BitVec.ofNat 64 s.ilen.toNat = s.ilen := by rw [BitVec.ofNat_toNat, BitVec.setWidth_eq]
  refine ⟨fun h2 hwhole hroom => ?_, fun hready h2 => ?_, fun hready h2 hshort => ?_⟩
  · rw [wsDecode_eq nomask s.byteTable_byteInput (by rwa [hlen]), hlen, if_neg (Nat.not_lt.2 hwhole)] at hop
    rw [exec_eq, State.runOp_ok hroom.1 hop (by rw [frameResult, laneTable_length]; exact hroom.2)]
    rfl
  · have herror : wsDecode nomask (byteInput s.input) = .error ⟨.format, s.ilen.toNat, 2⟩ := by
      rw [← hlen] at h2 ⊢
      match byteInput s.input, h2 with
      | [], _ => rfl
      | [_], _ => rfl
    rw [exec_eq, State.runOp_error hready (hop.trans herror), hilen]
    rfl
  · rw [wsDecode_eq nomask s.byteTable_byteInput (by rwa [hlen]), hlen, if_pos hshort] at hop
    rw [exec_eq, State.runOp_error hready hop, hilen]
    rfl

/-! ### WSDEC after WSENC (R265) -/

section
variable {hasmask : Bool} {arg0 arg1 n : Nat} {x : Nat → Nat}

theorem frameHeader_length (hasmask : Bool) (arg0 arg1 n : Nat) :
    (frameHeader hasmask arg0 arg1 n).length = 2 + extensionLength n + 4 * (if hasmask then 1 else 0) := by
  rw [frameHeader_eq]
  cases hasmask
  all_goals
    simp
    omega

/-- `x` begins with the header that WSENC builds. -/
abbrev HoldsHeader (hasmask : Bool) (arg0 arg1 n : Nat) (x : Nat → Nat) : Prop :=
  ∀ k < (frameHeader hasmask arg0 arg1 n).length, x k = (frameHeader hasmask arg0 arg1 n).getD k 0

theorem HoldsHeader.byte0 (hx : HoldsHeader hasmask arg0 arg1 n x) : x 0 = frameByte0Value arg0 := by
  refine (hx 0 (by rw [frameHeader_length]; omega)).trans ?_
  rw [frameHeader_eq]
  rfl

theorem HoldsHeader.byte1 (hx : HoldsHeader hasmask arg0 arg1 n x) :
    x 1 = (if hasmask then 128 else 0) + shortLength n := by
  refine (hx 1 (by rw [frameHeader_length]; omega)).trans ?_
  rw [frameHeader_eq]
  rfl

theorem HoldsHeader.extension (hx : HoldsHeader hasmask arg0 arg1 n x) {j : Nat} (hj : j < extensionLength n) :
    x (2 + j) = n / 256 ^ (extensionLength n - 1 - j) % 256 := by
  refine (hx (2 + j) (by rw [frameHeader_length]; omega)).trans ?_
  rw [frameHeader_eq, Nat.add_comm 2 j, List.getD_cons_succ, List.getD_cons_succ,
    List.getD_append _ _ _ _ (by simpa using hj), bytesOf_getD n hj]

theorem HoldsHeader.key (hx : HoldsHeader true arg0 arg1 n x) {j : Nat} (hj : j < 4) :
    x (2 + extensionLength n + j) = arg1 / 256 ^ (4 - 1 - j) % 256 := by
  refine (hx (2 + extensionLength n + j) (by rw [frameHeader_length, if_pos rfl]; omega)).trans ?_
  rw [frameHeader_eq, Nat.add_assoc, Nat.add_comm 2, List.getD_cons_succ, List.getD_cons_succ,
    List.getD_append_right _ _ _ _ (by simp), List.length_map, bytesOf_length, Nat.add_sub_cancel_left, if_pos rfl,
    bytesOf_getD arg1 hj]

/-- The minimal length form holds the length (R263). -/
theorem declared_eq (hn : n < 2 ^ 64) :
    (if extensionLength n = 0 then shortLength n else n % 256 ^ extensionLength n) = n := by
  unfold shortLength extensionLength
  by_cases h125 : n ≤ 125
  · simp only [if_pos h125, if_true]
  · by_cases h65535 : n ≤ 65535
    · simp only [if_neg h125, if_pos h65535]
      exact Nat.mod_eq_of_lt (by omega)
    · simp only [if_neg h125, if_neg h65535]
      exact Nat.mod_eq_of_lt hn

/-- The fields that WSDEC reads in a header that WSENC has built. -/
theorem HoldsHeader.fields (hx : HoldsHeader hasmask arg0 arg1 n x) (hn : n < 2 ^ 64) :
    (frameFields x).masked = (if hasmask then 1 else 0) ∧
    (frameFields x).header = (frameHeader hasmask arg0 arg1 n).length ∧ (frameFields x).declared = n ∧
    (frameFields x).key = if hasmask then arg1 % 256 ^ 4 else 0 := by
  have hshort : shortLength n < 128 := by
    unfold shortLength
    split_ifs <;> omega
  have hmasked : (frameFields x).masked = if hasmask then 1 else 0 := by
    change x 1 / 128 = _
    rw [hx.byte1]
    split <;> omega
  have hlen7 : x 1 % 128 = shortLength n := by
    rw [hx.byte1]
    split <;> omega
  have hextension : (frameFields x).extension = extensionLength n := by
    change (if x 1 % 128 = 126 then 2 else if x 1 % 128 = 127 then 8 else 0) = _
    rw [hlen7, shortLength, extensionLength]
    split_ifs <;> omega
  refine ⟨hmasked, ?_, ?_, ?_⟩
  · rw [frameFields_header, hmasked, hextension, frameHeader_length]
  · have hdeclared : (frameFields x).declared = if (frameFields x).extension = 0 then x 1 % 128
        else groupValue (frameFields x).extension false x 2 := rfl
    rw [hdeclared, hextension, hlen7, groupValue_of_bytes fun j hj => hx.extension hj]
    exact declared_eq hn
  · have hkey : (frameFields x).key = if (frameFields x).masked = 1
        then groupValue 4 false x (2 + (frameFields x).extension) else 0 := rfl
    rw [hkey, hmasked, hextension]
    cases hasmask with
    | true => exact groupValue_of_bytes fun j hj => hx.key hj
    | false => rfl

end

theorem frameByte0Value_fields (arg0 : Nat) :
    frameByte0Value arg0 / 128 % 2 = arg0 % 2 ∧ frameByte0Value arg0 / 64 % 2 = arg0 / 2 % 2 ∧
    frameByte0Value arg0 / 32 % 2 = arg0 / 4 % 2 ∧ frameByte0Value arg0 / 16 % 2 = arg0 / 8 % 2 ∧
    frameByte0Value arg0 % 16 = arg0 / 16 % 16 := by
  have hflag (x : Nat) : x % 2 < 2 := Nat.mod_lt _ (by decide)
  have h0 := hflag arg0
  have h1 := hflag (arg0 / 2)
  have h2 := hflag (arg0 / 4)
  have h3 := hflag (arg0 / 8)
  have hopcode : arg0 / 16 % 16 < 16 := Nat.mod_lt _ (by decide)
  unfold frameByte0Value
  generalize arg0 % 2 = f0, arg0 / 2 % 2 = f1, arg0 / 4 % 2 = f2, arg0 / 8 % 2 = f3, arg0 / 16 % 16 = opcode at *
  and_intros <;> omega

/-- RES0 of WSDEC has the flags and the opcode where ARG0 of WSENC has them (R262). -/
theorem frameWord_mod (arg0 m : Nat) : frameWord (frameByte0Value arg0) m % 256 = arg0 % 256 := by
  obtain ⟨h0, h1, h2, h3, hopcode⟩ := frameByte0Value_fields arg0
  rw [frameWord, h0, h1, h2, h3, hopcode]
  omega

theorem frameWord_masked (byte0 : Nat) {m : Nat} (hm : m < 2) : frameWord byte0 m / 256 % 2 = m := by
  have hlow :
      byte0 / 128 % 2 + byte0 / 64 % 2 * 2 + byte0 / 32 % 2 * 4 + byte0 / 16 % 2 * 8 + byte0 % 16 * 16 < 256 := by
    omega
  rw [frameWord]
  generalize byte0 / 128 % 2 + byte0 / 64 % 2 * 2 + byte0 / 32 % 2 * 4 + byte0 / 16 % 2 * 8 + byte0 % 16 * 16 = low at *
  omega

theorem extractLsb'_frameWord (arg0 : Lane) (m : Nat) :
    (BitVec.ofNat 64 (frameWord (frameByte0Value arg0.toNat) m)).extractLsb' 0 8 = arg0.extractLsb' 0 8 := by
  apply BitVec.eq_of_toNat_eq
  have hmod := frameWord_mod arg0.toNat m
  simp only [BitVec.extractLsb'_toNat, BitVec.toNat_ofNat, Nat.shiftRight_zero]
  omega

theorem getLsbD_frameWord (byte0 : Nat) (hasmask : Bool) :
    (BitVec.ofNat 64 (frameWord byte0 (if hasmask then 1 else 0))).getLsbD 8 = hasmask := by
  have hbit := frameWord_masked byte0 (m := if hasmask then 1 else 0) (by split <;> omega)
  rw [BitVec.getLsbD_ofNat, Nat.testBit_eq_decide_div_mod_eq]
  simp only [Nat.reducePow, hbit]
  cases hasmask <;> rfl

/-- RES2 of WSDEC has the key where ARG1 of WSENC has it, and 0 without one (R262). -/
theorem ofNat_key (hasmask : Bool) (arg1 : Lane) :
    BitVec.ofNat 64 (if hasmask then arg1.toNat % 256 ^ 4 else 0) = if hasmask then arg1 &&& 0xFFFFFFFF else 0 := by
  cases hasmask with
  | false => rfl
  | true =>
    have hlow : (arg1 &&& 0xFFFFFFFF).toNat = arg1.toNat % 256 ^ 4 := Nat.and_two_pow_sub_one_eq_mod arg1.toNat 32
    rw [if_pos rfl, if_pos rfl, ← hlow, BitVec.ofNat_toNat, BitVec.setWidth_eq]

/-- The input of a context to which the host has copied a frame that WSENC built. -/
theorem byteAt_of_frame {nomask hasmask : Bool} {s u : State}
    (hin : u.input = (asBytes (s.sentHeader hasmask) ++ s.sentPayload nomask hasmask).map byteLane) :
    u.ilen.toNat = (s.sentHeader hasmask).length + s.ilen.toNat ∧
    HoldsHeader hasmask s.arg0.toNat s.arg1.toNat s.ilen.toNat u.byteAt ∧
    ∀ k < s.ilen.toNat, u.byteAt ((s.sentHeader hasmask).length + k) =
      if hasmask = true ∧ nomask = false then maskedByte s.arg1.toNat k (s.byteAt k) else s.byteAt k := by
  have hvalues : u.byteValues = s.sentHeader hasmask ++ (s.sentPayload nomask hasmask).map BitVec.toNat := by
    rw [State.byteValues_eq, hin, byteInput_map_byteLane, List.map_append, s.map_toNat_sentHeader]
  refine ⟨?_, fun k hk => ?_, fun k hk => ?_⟩
  · simpa using congrArg List.length hvalues
  · rw [State.byteAt_eq, hvalues]
    exact List.getD_append _ _ _ _ hk
  · rw [State.byteAt_eq, hvalues]
    have hk' : k < (s.sentPayload nomask hasmask).length := by rwa [s.sentPayload_length]
    have hright := List.getD_append_right (s.sentHeader hasmask)
      ((s.sentPayload nomask hasmask).map BitVec.toNat) 0 ((s.sentHeader hasmask).length + k) (Nat.le_add_right _ _)
    rw [Nat.add_sub_cancel_left] at hright
    refine hright.trans ((byteTable_map_toNat _ k hk').symm.trans ?_)
    exact s.byteTable_sentPayload nomask hasmask k hk'

/-- A payload byte that WSENC and then WSDEC have treated: under the key if just one of the two has masked it (R265). -/
theorem maskedByte_twice (nomask nomask' hasmask : Bool) (key k b : Nat) :
    (if (if hasmask then 1 else 0) = 1 ∧ nomask' = false
      then maskedByte (if hasmask then key % 256 ^ 4 else 0) k
        (if hasmask = true ∧ nomask = false then maskedByte key k b else b)
      else if hasmask = true ∧ nomask = false then maskedByte key k b else b) =
      if hasmask = true ∧ nomask ≠ nomask' then maskedByte key k b else b := by
  cases hasmask
  · simp
  · cases nomask <;> cases nomask' <;> simp [maskedByte_mod, maskedByte_maskedByte, -Nat.reducePow]

/-- Settles O60: WSDEC reads the header's fields back (`HoldsHeader.fields`), and each payload byte is masked by both
commands, by one or by none (`maskedByte_twice`). -/
theorem webSocketRoundTrip : Obligations.WebSocketRoundTrip := by
  intro nomask nomask' hasmask s t u hroom ht hfeed hroom'
  have hin := input_of_feedsInto (opOf_wsenc nomask hasmask s) (by simpa [State.sentHeader] using hroom) ht hfeed
  obtain ⟨hlen, hheader, hpayload⟩ := byteAt_of_frame hin
  obtain ⟨hmasked, hheaderLen, hdeclared, hkey⟩ := hheader.fields s.ilen.isLt
  rw [← State.sentHeader] at hheaderLen
  have hlong : 2 ≤ (s.sentHeader hasmask).length := by
    rw [State.sentHeader, frameHeader_length]
    omega
  have hexec := (wsdecResult nomask' u).1
  rw [hmasked, hheaderLen, hdeclared, hkey, hlen, hheader.byte0, Nat.add_sub_cancel_left, Nat.min_self] at hexec
  have hilen : BitVec.ofNat 64 s.ilen.toNat = s.ilen := by rw [BitVec.ofNat_toNat, BitVec.setWidth_eq]
  refine ⟨_, hexec (by omega) (by omega) hroom', rfl, ?output, ?olen, extractLsb'_frameWord _ _, getLsbD_frameWord _ _,
    hilen, ofNat_key _ _, rfl, rfl⟩
  case output =>
    rw [State.completed_output _ _ _ _ _ _ _ (by rw [laneTable_length]; exact hroom'.2)]
    exact laneTable_congr fun k hk => by rw [hpayload k hk, maskedByte_twice]
  case olen => rw [State.completed_olen, laneTable_length, hilen]

end Sys2Proof.Machine
end
